-- ==== Sys2Proof/Word.lean ====
section
/-! DEFINITION. The word types of CORE (00_scope.md R8, 10_state.md R15): every register and field is an unsigned
binary number with bit 0 least significant (R9, R57). -/

namespace Sys2Proof

/-- A micro-operation word, `UWORD_W = 24` bits (R8, R70). -/
abbrev UWord := BitVec 24

/-- `CNT_W = 16` bits: the elapsed counter `E`, a sample `S[i]`, the `imm` field (R8, R16, R30). -/
abbrev Count := BitVec 16

/-- `I_W = 6` bits: the bit index `I` (R8, R17). -/
abbrev Index := BitVec 6

/-- `UPC_W = 5` bits: a ROM address (R8, R19). -/
abbrev Addr := BitVec 5

/-- `RES_W = 12` bits: humidity and temperature in tenths (R8, R32, R33). -/
abbrev Tenths := BitVec 12

/-- A byte of the frame (R31). -/
abbrev Byte := BitVec 8

end Sys2Proof
end

