-- ==== Sys2Proof/Config.lean ====
section
/-! DEFINITION. What is fixed for one instance of CORE: the protocol constants (00_scope.md R6, R7), the widths and
addresses the spec chooses (R8), and the free values for registers the spec leaves unspecified after `rst` (10_state.md R39). -/

namespace Sys2Proof

/-- The default of `PIN_W`, the OPEN parameter of R8 (D34). The width itself is the field `pinW` of State, fixed for an
instance and at any value (log 16). -/
def Config.defaultPinW : Nat := 8

/-- A pin identifier; CORE never computes with it (R28). It is below `2 ^ PIN_W` wherever CORE holds it (log 16). -/
abbrev PinId := Nat

/-- `N_BITS = 40` samples of a frame (R7). -/
abbrev Config.nBits : Nat := 40

/-- `N_BYTES = 5` bytes of a frame (R7). -/
abbrev Config.nBytes : Nat := 5

/-- The ROM holds 32 words (R8, R53). -/
abbrev Config.romDepth : Nat := 32

/-- `EPILOGUE`, the ROM address where every abort continues (R8, R160). -/
def Config.epilogue : Addr := 15

/-- The named synthesis-time protocol constants of R6, in ticks, with the spec's defaults (D5; log 17). -/
structure Config.Params where
  startLowUs : Count := 20000
  startHighUs : Count := 40
  responseTimeoutUs : Count := 80
  readyTimeoutUs : Count := 80
  bitStartTimeoutUs : Count := 50
  bitMeasureTimeoutUs : Count := 70
  bitThresholdUs : Count := 30
deriving DecidableEq, Repr

/-- The default parameters of R6. -/
def Config.defaults : Config.Params := {}

/-- The four timeouts exclude 65535, the `imm` that R74 forbids in `WAIT` and `WAITM`. -/
def Config.Params.wf (p : Config.Params) : Bool :=
  p.responseTimeoutUs != 65535 && p.readyTimeoutUs != 65535 &&
    p.bitStartTimeoutUs != 65535 && p.bitMeasureTimeoutUs != 65535

/-- FREE VALUE (log 7): a number whose low `PIN_W` bits are what `PIN` holds after the n-th `rst`; R39 "unspecified". -/
opaque Config.freePin : Nat → PinId

/-- FREE VALUE (log 7): what `S[i]` holds after the n-th `rst`; R39 "unspecified". -/
opaque Config.freeSample : Nat → Fin Config.nBits → Count

/-- FREE VALUE (log 7): what `B[k]` holds after the n-th `rst`; R39 "unspecified". -/
opaque Config.freeByte : Nat → Fin Config.nBytes → Byte

end Sys2Proof
end

