-- ==== Sys2Proof/Syntax.lean ====
section
/-! DEFINITION. The micro-operations of CORE as syntax: one constructor of `Instr` for each row of
spec/opcode_table.json, with the operands 30_encoding.md R70 to R75 give it. -/

namespace Sys2Proof

/-- `Level` (R10): `Low` or `High`. -/
inductive Level
  | low
  | high
deriving DecidableEq, Repr

/-- `Direction` (R10): `Input` or `Output`. -/
inductive Direction
  | input
  | output
deriving DecidableEq, Repr

/-- `Error` (60_exceptions.md R180, R181): the seven outcomes of a read. -/
inductive ErrorKind
  | none
  | invalidConfiguration
  | responseTimeout
  | getReadyTimeout
  | startReadBitTimeout
  | readBitTimeout
  | checksum
deriving DecidableEq, Repr

/-- A micro-operation (R72). -/
inductive Instr
  /-- `CENT` (R153): enter the critical section. -/
  | cent
  /-- `CEXT` (R154): leave the critical section. -/
  | cext
  /-- `DIR a, err` (R101): set the direction of the pin. -/
  | dir (a : Direction) (err : ErrorKind)
  /-- `LVL a` (R102): drive the line to a level. -/
  | lvl (a : Level)
  /-- `DLY imm` (R114): let a fixed time pass. -/
  | dly (imm : Count)
  /-- `WAIT a, imm, err` (R115): wait for a level. -/
  | wait (a : Level) (imm : Count) (err : ErrorKind)
  /-- `WAITM a, imm, err` (R116): wait for a level and record the elapsed time as a sample. -/
  | waitm (a : Level) (imm : Count) (err : ErrorKind)
  /-- `LOOP tgt, cnt` (R155): count an iteration and loop back while iterations remain. -/
  | loop (tgt : Addr) (cnt : BitVec 8)
  /-- `DEC imm` (R131): classify all samples and pack them into the frame. -/
  | dec (imm : Count)
  /-- `VAL` (R133): validate the frame. -/
  | val
  /-- `CVT` (R135): produce the Measurement. -/
  | cvt
  /-- `END` (R156): finish the read. -/
  | endOp
deriving DecidableEq, Repr

end Sys2Proof
end

