-- ==== Sys2Proof/WellFormed.lean ====
section
/-! DEFINITION. Which terms of `Instr` are micro-operations of the table: the constraints of 30_encoding.md R73 that
the types do not already hold (`err` in 1 to 6, `imm <= 65534`). -/

namespace Sys2Proof

/-- `err` in 1 to 6 (R73): any of the seven kinds but `None`. -/
def ErrorKind.isError : ErrorKind → Bool
  | .none => false
  | .invalidConfiguration => true
  | .responseTimeout => true
  | .getReadyTimeout => true
  | .startReadBitTimeout => true
  | .readBitTimeout => true
  | .checksum => true

/-- `imm <= 65534` in `WAIT` and `WAITM` (R73, R74). -/
def timeoutAllowed (imm : Count) : Bool := imm.toNat ≤ 65534

/-- The constraints of R73. -/
def Instr.wf : Instr → Bool
  | .cent => true
  | .cext => true
  | .dir _ err => err.isError
  | .lvl _ => true
  | .dly _ => true
  | .wait _ imm err => err.isError && timeoutAllowed imm
  | .waitm _ imm err => err.isError && timeoutAllowed imm
  | .loop _ _ => true
  | .dec _ => true
  | .val => true
  | .cvt => true
  | .endOp => true

end Sys2Proof
end

