-- ==== Sys2Proof/Decode.lean ====
section
/-! DEFINITION. The decoder of 24-bit words, total, rejecting illegal words by name (30_encoding.md R70 to R78), and
after it the encoder, written from the same tables. -/

namespace Sys2Proof

/-- Why a word is illegal (R78). -/
inductive Illegal
  /-- `op` is 0x0, 0xD, 0xE or 0xF. -/
  | reservedOp
  /-- A field the row does not use is not 0 (for `LOOP`, also `imm[7:5]`). -/
  | unusedFieldNotZero
  /-- `err` is 0 or 7 in `DIR`, `WAIT` or `WAITM`. -/
  | reservedErr
  /-- `imm = 65535` in `WAIT` or `WAITM`. -/
  | timeoutTooLarge
deriving DecidableEq, Repr

/-! ## Codes of the enumerations -/

/-- `Low = 0`, `High = 1` (R10, R75). -/
def levelOfBit (b : Bool) : Level := if b then .high else .low

def Level.bit : Level → Bool
  | .low => false
  | .high => true

/-- `Input = 0`, `Output = 1` (R10, R75). -/
def directionOfBit (b : Bool) : Direction := if b then .output else .input

def Direction.bit : Direction → Bool
  | .input => false
  | .output => true

/-- The 3-bit codes of R181. -/
def ErrorKind.code : ErrorKind → BitVec 3
  | .none => 0
  | .invalidConfiguration => 1
  | .responseTimeout => 2
  | .getReadyTimeout => 3
  | .startReadBitTimeout => 4
  | .readBitTimeout => 5
  | .checksum => 6

/-- The error an `err` field stands for; codes 0 and 7 are illegal there (R73, R78). -/
def errOfCode (c : BitVec 3) : Option ErrorKind :=
  match c.toNat with
  | 1 => some .invalidConfiguration
  | 2 => some .responseTimeout
  | 3 => some .getReadyTimeout
  | 4 => some .startReadBitTimeout
  | 5 => some .readBitTimeout
  | 6 => some .checksum
  | _ => Option.none

/-! ## Fields of a word (R70, R71) -/

def opField (w : UWord) : BitVec 4 := w.extractLsb' 20 4
def aField (w : UWord) : Bool := w.getLsbD 19
def errField (w : UWord) : BitVec 3 := w.extractLsb' 16 3
def immField (w : UWord) : Count := w.extractLsb' 0 16
/-- `LOOP`: `imm[15:8]` (R71). -/
def cntField (w : UWord) : BitVec 8 := w.extractLsb' 8 8
/-- `LOOP`: `imm[7:5]`, which must be 0 (R71). -/
def loopZeroField (w : UWord) : BitVec 3 := w.extractLsb' 5 3
/-- `LOOP`: `imm[4:0]` (R71). -/
def tgtField (w : UWord) : Addr := w.extractLsb' 0 5

/-! ## The decoder (R73, R76) -/

/-- The operation `i` of a row that requires the unused fields to be 0 (`zero`). -/
def requireZero (zero : Bool) (i : Instr) : Except Illegal Instr :=
  if zero then .ok i else .error .unusedFieldNotZero

/-- A row with an `err` operand. -/
def withErr (w : UWord) (f : ErrorKind → Except Illegal Instr) : Except Illegal Instr :=
  match errOfCode (errField w) with
  | some e => f e
  | Option.none => .error .reservedErr

/-- A row with a timeout and an `err` operand (`WAIT`, `WAITM`). -/
def withTimeout (w : UWord) (f : Level → Count → ErrorKind → Instr) : Except Illegal Instr :=
  withErr w fun e =>
    if timeoutAllowed (immField w) then .ok (f (levelOfBit (aField w)) (immField w) e)
    else .error .timeoutTooLarge

def aZero (w : UWord) : Bool := !aField w
def errZero (w : UWord) : Bool := errField w == 0
def immZero (w : UWord) : Bool := immField w == 0
def operandsZero (w : UWord) : Bool := aZero w && errZero w && immZero w

/-- Decoding by R73: every 24-bit word is one micro-operation or illegal. -/
def decode (w : UWord) : Except Illegal Instr :=
  match (opField w).toNat with
  | 0x1 => requireZero (operandsZero w) .cent
  | 0x2 => requireZero (operandsZero w) .cext
  | 0x3 => if immZero w then withErr w fun e => .ok (.dir (directionOfBit (aField w)) e)
           else .error .unusedFieldNotZero
  | 0x4 => requireZero (errZero w && immZero w) (.lvl (levelOfBit (aField w)))
  | 0x5 => requireZero (aZero w && errZero w) (.dly (immField w))
  | 0x6 => withTimeout w .wait
  | 0x7 => withTimeout w .waitm
  | 0x8 => requireZero (aZero w && errZero w && loopZeroField w == 0) (.loop (tgtField w) (cntField w))
  | 0x9 => requireZero (aZero w && errZero w) (.dec (immField w))
  | 0xA => requireZero (operandsZero w) .val
  | 0xB => requireZero (operandsZero w) .cvt
  | 0xC => requireZero (operandsZero w) .endOp
  | _ => .error .reservedOp

/-- The decoder on a word numbered as spec/opcode_table.json numbers it. A word of CORE is stored whole at one ROM
address (R57, R70): there is no byte order to undo (log 23). -/
def decodeTableWord (nbits w : Nat) : Option Instr :=
  if nbits ≤ 24 then
    match decode (BitVec.ofNat 24 (w % 2 ^ nbits)) with
    | .ok i => some i
    | .error _ => Option.none
  else Option.none

/-! ## The encoder -/

/-- The format `UOP24` (R70): `op[23:20] a[19] err[18:16] imm[15:0]`. -/
def assemble (op : BitVec 4) (a : Bool) (err : BitVec 3) (imm : Count) : UWord :=
  op ++ BitVec.ofBool a ++ err ++ imm

/-- The operation codes (R72). -/
def Instr.opcode : Instr → BitVec 4
  | .cent => 0x1
  | .cext => 0x2
  | .dir _ _ => 0x3
  | .lvl _ => 0x4
  | .dly _ => 0x5
  | .wait _ _ _ => 0x6
  | .waitm _ _ _ => 0x7
  | .loop _ _ => 0x8
  | .dec _ => 0x9
  | .val => 0xA
  | .cvt => 0xB
  | .endOp => 0xC

/-- The `imm` of `LOOP`: `cnt`, three zero bits, `tgt` (R71). -/
def loopImm (tgt : Addr) (cnt : BitVec 8) : Count := cnt ++ (0 : BitVec 3) ++ tgt

/-- The word of a micro-operation; fields it does not use are 0 (R70, R73). -/
def encode : Instr → UWord
  | .cent => assemble 0x1 false 0 0
  | .cext => assemble 0x2 false 0 0
  | .dir a err => assemble 0x3 a.bit err.code 0
  | .lvl a => assemble 0x4 a.bit 0 0
  | .dly imm => assemble 0x5 false 0 imm
  | .wait a imm err => assemble 0x6 a.bit err.code imm
  | .waitm a imm err => assemble 0x7 a.bit err.code imm
  | .loop tgt cnt => assemble 0x8 false 0 (loopImm tgt cnt)
  | .dec imm => assemble 0x9 false 0 imm
  | .val => assemble 0xA false 0 0
  | .cvt => assemble 0xB false 0 0
  | .endOp => assemble 0xC false 0 0

end Sys2Proof
end

