-- ==== Sys2Proof/Machine/Rom.lean ====
section
/-! DEFINITION. The canonical micro-program of 30_encoding.md R82, as the ROM image of a parameter set. -/

namespace Sys2Proof.Machine

/-- Words 0 to 16 of R82: the seven steps of 43_sequencer.md R157. -/
def canonicalProgram (p : Config.Params) : List Instr :=
  [ .cent
  , .dir .output .invalidConfiguration
  , .lvl .low
  , .dly p.startLowUs
  , .lvl .high
  , .dly p.startHighUs
  , .dir .input .invalidConfiguration
  , .wait .low p.responseTimeoutUs .responseTimeout
  , .wait .high p.readyTimeoutUs .getReadyTimeout
  , .wait .low p.bitStartTimeoutUs .startReadBitTimeout
  , .waitm .high p.bitMeasureTimeoutUs .readBitTimeout
  , .loop 9 40
  , .dec p.bitThresholdUs
  , .val
  , .cvt
  , .cext
  , .endOp ]

/-- A program as a ROM image: addresses the list does not reach hold `0x000000`, an illegal word (R53, R78). -/
def romImage (prog : List Instr) : Vector UWord Config.romDepth :=
  Vector.ofFn fun a => match prog[a.val]? with
    | some i => encode i
    | Option.none => 0

/-- The ROM of CORE (R82, R53). -/
def canonicalRom (p : Config.Params) : Vector UWord Config.romDepth := romImage (canonicalProgram p)

end Sys2Proof.Machine
end

