-- ==== Sys2Proof/Machine/State.lean ====
section
/-! DEFINITION. The state of one CORE instance as plain data: the registers, arrays and flags of 10_state.md R15, the ROM
(20_memory.md R53), the environment's answers (R37) and the moves of the host still to come (R36); the reasons a step can
stop; the state after reset (R39). -/

namespace Sys2Proof.Machine

/-- The answer of the GPIO capability to a `Configure` call (R95). -/
inductive CfgAnswer
  | ok
  | configError
deriving DecidableEq, Repr

/-- The oracle `lin` (R37) as data: the level at each tick since START, as segments of a level and a number of ticks, in
the notation of 95_test_vectors.md, and the level at every later tick (log 1). -/
structure Trace where
  segs : List (Level × Nat)
  rest : Level
deriving DecidableEq, Repr

/-- What the environment answers during one read (R13, R37; log 1). -/
structure Env where
  lin : Trace
  /-- `cfg(n)` for the first calls of the read. -/
  cfg : List CfgAnswer
  /-- `cfg(n)` for every later call. -/
  cfgRest : CfgAnswer
deriving DecidableEq, Repr

/-- One `Configure` call of the current read, as it stood on the ports (R36, R95; log 13). -/
structure CfgCall where
  tick : Nat
  pin : PinId
  dir : Direction
  answer : CfgAnswer
deriving DecidableEq, Repr

/-- The condition of the line (R103): driven by CORE at a level, or released. -/
inductive LineCond
  | driven (l : Level)
  | released
deriving DecidableEq, Repr

/-- A move of the host or the environment. -/
inductive HostMove
  /-- The host holds `start = 1` with a pin on `pin` (R150); `env` is what the environment answers during that read. -/
  | start (pin : PinId) (env : Env)
  /-- `rst` is asserted at one tick (R210, R211). -/
  | rst
  /-- The environment stalls or preempts CORE (R220, U6). -/
  | preempt
deriving DecidableEq, Repr

/-- A move that is due after a number of machine steps (log 2). -/
structure Arrival where
  after : Nat
  move : HostMove
deriving DecidableEq, Repr

/-- The state of CORE (R15), with the model's own fields of INVENTORY.md. -/
structure State where
  /-- `E`, the elapsed counter (R16). -/
  e : Count
  /-- `I`, the bit index (R17). -/
  i : Index
  /-- `UPC`, the micro-program counter (R19). -/
  upc : Addr
  /-- `UPC` has run past address 31 (R19, T59e; log 10). -/
  upcOver : Bool
  /-- `BUSY` (R21). -/
  busy : Bool
  /-- `DONE` (R22). -/
  done : Bool
  /-- `CRIT` (R23). -/
  crit : Bool
  /-- `ERR` (R25). -/
  err : ErrorKind
  /-- `DIR` (R26). -/
  dir : Direction
  /-- `OUT` (R27). -/
  out : Level
  /-- `PIN` (R28), below `2 ^ pinW`. -/
  pin : PinId
  /-- `S[0..39]` (R30, R51). -/
  samples : Vector Count Config.nBits
  /-- `B[0..4]` (R31, R52). -/
  frame : Vector Byte Config.nBytes
  /-- `HUM_X10` (R32). -/
  hum : Tenths
  /-- `TMP_X10` (R33). -/
  tmp : Tenths
  /-- `CHK` (R34). -/
  chk : Byte
  /-- `T`, ticks since START (R15, R38). -/
  t : Nat
  /-- The micro-program ROM (R53), read-only (R67; log 9). -/
  rom : Vector UWord Config.romDepth
  /-- `PIN_W` (R8), the open parameter: the width of the pin identifier of this instance, never written (log 16). -/
  pinW : Nat
  /-- What the environment answers during the current read (R37; log 1). -/
  env : Env
  /-- The `Configure` calls of the current read, newest first (R36, R95; log 13). -/
  cfgLog : List CfgCall
  /-- The line's condition when the current read began (R103; log 14). -/
  lineBase : LineCond
  /-- The changes of the line's condition since then, newest first, with their ticks (R103; log 14). -/
  lineLog : List (Nat × LineCond)
  /-- The moves of the host and the environment still to come (log 2). -/
  inbox : List Arrival
  /-- How many times `rst` has been asserted: the index of the free values (R39; log 7). -/
  draws : Nat
deriving DecidableEq, Repr

/-- The model faults of 43_sequencer.md R166: the spec gives the situation no meaning. All are safe: nothing is claimed
of a run after one. None is reachable from the canonical micro-program. -/
inductive Fault
  /-- Raised by the fetch: the word at `UPC` is no micro-operation (R78, R152). Safe. -/
  | illegalMicroOp
  /-- Raised by the fetch: `UPC` has run past address 31 (R19). Safe. -/
  | upcOverflow
  /-- Raised by `LVL` while `DIR = Input` (R99, U1). Safe. -/
  | levelWriteWhileInput
  /-- Raised by `WAIT` and `WAITM` while `DIR = Output` (R100, U2). Safe. -/
  | levelReadWhileOutput
  /-- Raised by `WAITM` with `I >= 40` (R116, R51, U16). Safe. -/
  | sampleIndexOutOfRange
  /-- Raised by `LOOP` with `I = 63` (R155, U16). Safe. -/
  | indexOverflow
deriving DecidableEq, Repr

/-- Why a step has no meaning. -/
inductive Refusal
  /-- Raised by a refused arm of `exec`: the instruction has no meaning yet. Safe. -/
  | notModelled (mnemonic : String)
  /-- Raised by a START move while `BUSY = 1`: "no meaning at all" (R165, U5). Safe. -/
  | startWhileBusy
  /-- Raised by a preemption while a read is in progress: the model says nothing of such a read (R220, U6). Safe. -/
  | preempted
deriving DecidableEq, Repr

/-- The environment of State.reset, before any read: `High` at every tick, `Ok` for every call (DESIGN CHOICE, log 25). -/
def Env.quiet : Env := { lin := { segs := [], rest := .high }, cfg := [], cfgRest := .ok }

/-- The state after reset (R39, R210). `PIN`, `S` and `B`, which the spec leaves unspecified, are 0 (DESIGN CHOICE, log 6);
the ROM holds the canonical image (R82) and `PIN_W` is at its default (R8). -/
def State.reset : State where
  e := 0
  i := 0
  upc := 0
  upcOver := false
  busy := false
  done := false
  crit := false
  err := .none
  dir := .input
  out := .high
  pin := 0
  samples := Vector.replicate Config.nBits 0
  frame := Vector.replicate Config.nBytes 0
  hum := 0
  tmp := 0
  chk := 0
  t := 0
  rom := canonicalRom Config.defaults
  pinW := Config.defaultPinW
  env := Env.quiet
  cfgLog := []
  lineBase := .released
  lineLog := []
  inbox := []
  draws := 0

end Sys2Proof.Machine
end

