-- ==== Sys2Proof/Machine/Operands.lean ====
section
/-! DEFINITION. The values the micro-operations compute from their operands and from the arrays: the oracles read from
their data (10_state.md R37), the threshold detector (41_timing_engine.md R117), packing, checksum and conversion
(42_frame_decoder.md R130, R132, R134). -/

namespace Sys2Proof.Machine

/-- The level of a list of segments at tick `t`, `rest` after the last segment. -/
def segsLevelAt (rest : Level) : List (Level × Nat) → Nat → Level
  | [], _ => rest
  | (l, n) :: segs, t => if t < n then l else segsLevelAt rest segs (t - n)

/-- `lin(t)` (R37, R97). -/
def Trace.levelAt (lin : Trace) (t : Nat) : Level := segsLevelAt lin.rest lin.segs t

/-- `cfg(n)` (R95): the answer to the n-th `Configure` call of a read. -/
def Env.cfgAt (env : Env) (n : Nat) : CfgAnswer := env.cfg.getD n env.cfgRest

/-- A pin identifier on a port of `w = PIN_W` bits (R28, R36): a number that fits is itself (log 16). -/
def pinOnPort (w : Nat) (pin : PinId) : PinId := pin % 2 ^ w

/-- `Classify(s, thr)` (R117): strictly greater than the threshold is bit 1. -/
def classify (sample thr : Count) : Bool := thr.toNat < sample.toNat

/-- The 40 bits of `DEC` (R131). -/
def classifyAll (samples : Vector Count Config.nBits) (thr : Count) : Vector Bool Config.nBits :=
  Vector.ofFn fun k => classify samples[k] thr

/-- The bit received as number `8 * k + j`, as a one-bit vector. -/
def frameBit (bits : Vector Bool Config.nBits) (k : Fin Config.nBytes) (j : Fin 8) : BitVec 1 :=
  BitVec.ofBool (bits[8 * k.val + j.val]'(by have := k.isLt; have := j.isLt; simp only [Config.nBytes, Config.nBits] at *; omega))

/-- `bytes[k] = {bits[8k], bits[8k+1], ..., bits[8k+7]}` (R130, R55): most significant bit first. -/
def packByte (bits : Vector Bool Config.nBits) (k : Fin Config.nBytes) : Byte :=
  frameBit bits k 0 ++ frameBit bits k 1 ++ frameBit bits k 2 ++ frameBit bits k 3 ++
    frameBit bits k 4 ++ frameBit bits k 5 ++ frameBit bits k 6 ++ frameBit bits k 7

/-- `Pack(bits)` (R130). -/
def pack (bits : Vector Bool Config.nBits) : Vector Byte Config.nBytes := Vector.ofFn (packByte bits)

/-- `Checksum(b0, b1, b2, b3)` (R132), on naturals and then reduced. -/
def checksum (b0 b1 b2 b3 : Byte) : Byte :=
  BitVec.ofNat 8 ((b0.toNat + b1.toNat + b2.toNat + b3.toNat) % 256)

/-- `Convert(b_int, b_frac)` (R134): tenths, at most 2805. -/
def convert (bInt bFrac : Byte) : Tenths := BitVec.ofNat 12 (10 * bInt.toNat + bFrac.toNat)

end Sys2Proof.Machine
end

