-- ==== Sys2Proof/Machine/Flags.lean ====
section
/-! DEFINITION. What is computed as a flag or read off the flags: the error indicator `VAL` leaves (42_frame_decoder.md
R133), the predicates and views of the state that the spec names and that are no registers (10_state.md R20, R24, R35, R36;
40_line_controller.md R103). -/

namespace Sys2Proof.Machine

/-- The `ERR` that `VAL` leaves (R133): `Checksum` on a mismatch, else what it was. -/
def valError (frame : Vector Byte Config.nBytes) (err : ErrorKind) : ErrorKind :=
  if checksum frame[0] frame[1] frame[2] frame[3] = frame[4] then err else .checksum

/-- `VALID = (DONE = 1 and ERR = None)` (R24). -/
def State.valid (s : State) : Bool := s.done && s.err == .none

/-- The documented states of R20. -/
inductive Phase
  | idle
  | startPulse
  | awaitResponse
  | awaitReady
  | bitLoop
  | decode
  | validate
  | terminal
deriving DecidableEq, Repr

/-- The 3-bit codes of R20. -/
def Phase.code : Phase → BitVec 3
  | .idle => 0
  | .startPulse => 1
  | .awaitResponse => 2
  | .awaitReady => 3
  | .bitLoop => 4
  | .decode => 5
  | .validate => 6
  | .terminal => 7

/-- `PHASE(BUSY, UPC)` of R20, for the canonical micro-program. The table of R20 gives no phase for `BUSY = 1` with `UPC` in
17 to 31, where the canonical micro-program has no word: answering `Terminal` there is the model's choice (DESIGN CHOICE,
log 28). -/
def State.phase (s : State) : Phase :=
  if s.busy = false then .idle
  else if s.upc.toNat ≤ 6 then .startPulse
  else if s.upc.toNat = 7 then .awaitResponse
  else if s.upc.toNat = 8 then .awaitReady
  else if s.upc.toNat ≤ 11 then .bitLoop
  else if s.upc.toNat = 12 then .decode
  else if s.upc.toNat = 13 then .validate
  else .terminal

/-- The Measurement the host reads (R35). -/
structure Measurement where
  hum : Tenths
  tmp : Tenths
  chk : Byte
  err : ErrorKind
deriving DecidableEq, Repr

def State.measurement (s : State) : Measurement := ⟨s.hum, s.tmp, s.chk, s.err⟩

/-- The condition of the line now (R103). -/
def State.lineCond (s : State) : LineCond :=
  match s.dir with
  | .output => .driven s.out
  | .input => .released

/-- The record of the read, oldest change first (R103). -/
def State.lineRecord (s : State) : List (Nat × LineCond) := s.lineLog.reverse

/-- The output ports of R36. `gpioDirReq` is `some d` while the strobe `gpio_dir_req_valid` of a `Configure` call of this
tick stands, with `d` on `gpio_dir_req` (R95; log 13). -/
structure Ports where
  busy : Bool
  done : Bool
  err : BitVec 3
  humX10 : Tenths
  tmpX10 : Tenths
  chk : Byte
  crit : Bool
  gpioPin : PinId
  gpioDirReq : Option Direction
  gpioOe : Bool
  gpioOut : Bool
deriving DecidableEq, Repr

/-- The direction asked of `Configure` at the current tick, if the read in progress made a call in it (R36, R95). The strobe is
a pulse: it is gone when `T` advances, and when CORE goes Idle, where `T` stands still (log 13, log 19). -/
def State.dirReq (s : State) : Option Direction :=
  match s.cfgLog with
  | [] => Option.none
  | c :: _ => if s.busy = true ∧ c.tick = s.t then some c.dir else Option.none

def State.ports (s : State) : Ports where
  busy := s.busy
  done := s.done
  err := s.err.code
  humX10 := s.hum
  tmpX10 := s.tmp
  chk := s.chk
  crit := s.crit
  gpioPin := s.pin
  gpioDirReq := s.dirReq
  gpioOe := s.dir.bit
  gpioOut := s.out.bit

end Sys2Proof.Machine
end

