-- ==== Sys2Proof/Machine/Ops.lean ====
section
/-! DEFINITION. The shared operations of the micro-operations: moving `UPC`, `abort` and the return of `END`, the consumed
capability (40_line_controller.md R95 to R100, 41_timing_engine.md R110 to R112, 43_sequencer.md R153, R154), and the
accesses to the sample buffer and the frame. -/

namespace Sys2Proof.Machine

/-! ## The micro-program counter -/

/-- `UPC <- a`. -/
def setUpc (a : Addr) (s : State) : State := { s with upc := a, upcOver := false }

/-- `UPC <- UPC + 1`; past address 31 it does not wrap, and the next fetch faults (R19, T59e; log 10). -/
def advance (s : State) : State :=
  { s with upc := if s.upc = 31 then 31 else s.upc + 1, upcOver := s.upc == 31 }

/-! ## Errors and the return -/

/-- `abort(e)` (R160, R193): the one way an error is taken. Nothing is saved. -/
def abort (e : ErrorKind) (s : State) : State :=
  { s with err := e, upc := Config.epilogue, upcOver := false }

/-- The return of a read (R156, R196): CORE goes Idle and hands the Measurement to the host. -/
def finish (s : State) : State := { s with busy := false, done := true, upc := 0, upcOver := false }

/-! ## The critical section -/

/-- `CritEnter()` (R153). -/
def critEnter (s : State) : State := { s with crit := true }

/-- `CritExit()` (R154). -/
def critExit (s : State) : State := { s with crit := false }

/-! ## The line -/

/-- The changes of the line that came before tick `t`: a later change at the same tick replaces an earlier one (R64). -/
def earlierChanges (t : Nat) : List (Nat × LineCond) → List (Nat × LineCond)
  | [] => []
  | (u, c) :: rest => if u = t then rest else (u, c) :: rest

/-- The condition that a record leaves on the line. -/
def lastCond (base : LineCond) : List (Nat × LineCond) → LineCond
  | [] => base
  | (_, c) :: _ => c

/-- The record after the line takes condition `c` at tick `t` (R103, R64). -/
def recordChange (base : LineCond) (t : Nat) (c : LineCond) (log : List (Nat × LineCond)) : List (Nat × LineCond) :=
  if c = lastCond base (earlierChanges t log) then earlierChanges t log else (t, c) :: earlierChanges t log

/-- Enter the line's present condition in the record of the read (R103). -/
def noteLine (s : State) : State := { s with lineLog := recordChange s.lineBase s.t s.lineCond s.lineLog }

/-- `Configure(PIN, mode)` (R95): the n-th call of a read is answered by `cfg(n)`; nothing else changes (log 13). -/
def configure (mode : Direction) (s : State) : CfgAnswer × State :=
  let r := s.env.cfgAt s.cfgLog.length
  (r, { s with cfgLog := ⟨s.t, s.pin, mode, r⟩ :: s.cfgLog })

/-- `SetDirection(mode)` (R98): on `Ok` the direction is applied, and a line now driven carries `OUT`. -/
def setDirection (mode : Direction) (s : State) : CfgAnswer × State :=
  match configure mode s with
  | (.ok, s1) => (.ok, noteLine { s1 with dir := mode })
  | (.configError, s1) => (.configError, s1)

/-- `SetLevel(level)` (R99, R96). -/
def setLevel (level : Level) (s : State) : Except Fault State :=
  match s.dir with
  | .output => .ok (noteLine { s with out := level })
  | .input => .error .levelWriteWhileInput

/-- `GetLevel()` (R100, R97): `lin(T)`, taken while `DIR = Input` only. -/
def getLevel (s : State) : Except Fault Level :=
  match s.dir with
  | .input => .ok (s.env.lin.levelAt s.t)
  | .output => .error .levelReadWhileOutput

/-! ## Time -/

/-- `DelayUs(n)` (R110). -/
def delayUs (n : Nat) (s : State) : State := { s with t := s.t + n }

/-- `NowUs()` (R111). -/
def nowUs (s : State) : Nat := s.t

/-- The result of a wait (R112, R24). -/
inductive WaitResult
  | ok (elapsed : Nat)
  | timeout
deriving DecidableEq, Repr

/-- The loop of `WaitForLevel` (R112) from tick `t` with `e` ticks elapsed: (1) the budget test, (2) one poll of the line,
(3) one tick. `fuel` bounds the turns; `timeout + 2` of them always suffice. -/
def pollLine (lin : Trace) (target : Level) (timeout : Nat) : Nat → Nat → Nat → WaitResult
  | 0, _, _ => .timeout
  | fuel + 1, t, e =>
    if e > timeout then .timeout
    else if lin.levelAt t = target then .ok e
    else pollLine lin target timeout fuel (t + 1) (e + 1)

/-- `E` and `T` after a wait of `n` ticks. -/
def elapse (n : Nat) (s : State) : State := { s with e := BitVec.ofNat 16 n, t := s.t + n }

/-- `WaitForLevel(target, timeout)` (R112, R113). The direction does not change inside the loop, so the test of its first
poll decides for all (log 27). -/
def waitForLevel (target : Level) (timeout : Count) (s : State) : Except Fault (WaitResult × State) :=
  match getLevel s with
  | .error f => .error f
  | .ok _ =>
    match pollLine s.env.lin target timeout.toNat (timeout.toNat + 2) (nowUs s) 0 with
    | .ok n => .ok (.ok n, elapse n s)
    | .timeout => .ok (.timeout, elapse (timeout.toNat + 1) s)

/-! ## The arrays -/

/-- `S[i] <- v` (R51): there is no entry 40. -/
def setSample (i : Index) (v : Count) (s : State) : Except Fault State :=
  if h : i.toNat < Config.nBits then .ok { s with samples := s.samples.set i.toNat v h }
  else .error .sampleIndexOutOfRange

/-- `B[0..4] <- bytes` (R131). -/
def setFrame (bytes : Vector Byte Config.nBytes) (s : State) : State := { s with frame := bytes }

/-- `CHK <- B[4]` (D35, R135). -/
def keepChecksum (s : State) : State := { s with chk := s.frame[4] }

/-- `HUM_X10`, `TMP_X10` and `CHK` from the frame (R135). -/
def setMeasurement (s : State) : State :=
  { keepChecksum s with
    hum := convert s.frame[0] s.frame[1]
    tmp := convert s.frame[2] s.frame[3] }

end Sys2Proof.Machine
end

