-- ==== Sys2Proof/Machine/Frame.lean ====
section
/-! DEFINITION. The micro-operations of the Frame Decoder (42_frame_decoder.md): `DEC`, `VAL`, `CVT`. -/

namespace Sys2Proof.Machine

/-- `DEC imm` (R131). -/
def execDec (imm : Count) (s : State) : Host.Outcome State Fault Refusal :=
  .next (advance (setFrame (pack (classifyAll s.samples imm)) s))

/-- `VAL` (R133, R195): it does not abort, and it writes `CHK` on a match and on a mismatch (D35; log 11). -/
def execVal (s : State) : Host.Outcome State Fault Refusal :=
  .next (advance (keepChecksum { s with err := valError s.frame s.err }))

/-- `CVT` (R135). -/
def execCvt (s : State) : Host.Outcome State Fault Refusal := .next (advance (setMeasurement s))

end Sys2Proof.Machine
end

