-- ==== Sys2Proof/Machine/Line.lean ====
section
/-! DEFINITION. The micro-operations of the Line Controller (40_line_controller.md): `DIR`, `LVL`. -/

namespace Sys2Proof.Machine

/-- `DIR a, err` (R101). -/
def execDir (a : Direction) (err : ErrorKind) (s : State) : Host.Outcome State Fault Refusal :=
  match setDirection a s with
  | (.ok, s1) => .next (advance s1)
  | (.configError, s1) => .next (abort err s1)

/-- `LVL a` (R102). -/
def execLvl (a : Level) (s : State) : Host.Outcome State Fault Refusal :=
  match setLevel a s with
  | .ok s1 => .next (advance s1)
  | .error f => .fault f

end Sys2Proof.Machine
end

