-- ==== Sys2Proof/Machine/Sequencer.lean ====
section
/-! DEFINITION. The micro-operations of the Sequencer itself (43_sequencer.md): `CENT`, `CEXT`, `LOOP`, `END`. -/

namespace Sys2Proof.Machine

/-- `CENT` (R153). -/
def execCent (s : State) : Host.Outcome State Fault Refusal := .next (advance (critEnter s))

/-- `CEXT` (R154). -/
def execCext (s : State) : Host.Outcome State Fault Refusal := .next (advance (critExit s))

/-- `LOOP tgt, cnt` (R155): `I'` is compared with `cnt` after the increment; `I` past 63 is `fault(IndexOverflow)`. -/
def execLoop (tgt : Addr) (cnt : BitVec 8) (s : State) : Host.Outcome State Fault Refusal :=
  if s.i.toNat = 63 then .fault .indexOverflow
  else if s.i.toNat + 1 < cnt.toNat then .next (setUpc tgt { s with i := s.i + 1 })
  else .next (advance { s with i := s.i + 1 })

/-- `END` (R156). -/
def execEnd (s : State) : Host.Outcome State Fault Refusal := .next (finish s)

end Sys2Proof.Machine
end

