-- ==== Sys2Proof/Machine/Timing.lean ====
section
/-! DEFINITION. The micro-operations of the Timing Engine (41_timing_engine.md): `DLY`, `WAIT`, `WAITM`. -/

namespace Sys2Proof.Machine

/-- `DLY imm` (R114). -/
def execDly (imm : Count) (s : State) : Host.Outcome State Fault Refusal :=
  .next (advance { delayUs imm.toNat s with e := imm })

/-- `WAIT a, imm, err` (R115). -/
def execWait (a : Level) (imm : Count) (err : ErrorKind) (s : State) : Host.Outcome State Fault Refusal :=
  match waitForLevel a imm s with
  | .error f => .fault f
  | .ok (.timeout, s1) => .next (abort err s1)
  | .ok (.ok _, s1) => .next (advance s1)

/-- `WAITM a, imm, err` (R116): the index is tested on `Ok` only (log 12). -/
def execWaitm (a : Level) (imm : Count) (err : ErrorKind) (s : State) : Host.Outcome State Fault Refusal :=
  match waitForLevel a imm s with
  | .error f => .fault f
  | .ok (.timeout, s1) => .next (abort err s1)
  | .ok (.ok _, s1) =>
    match setSample s1.i s1.e s1 with
    | .error f => .fault f
    | .ok s2 => .next (advance s2)

end Sys2Proof.Machine
end

