-- ==== Sys2Proof/Machine/Dispatch.lean ====
section
/-! DEFINITION. The one dispatch from a micro-operation to its meaning (43_sequencer.md R152). -/

namespace Sys2Proof.Machine

def exec (i : Instr) (s : State) : Host.Outcome State Fault Refusal :=
  match i with
  -- Sequencer
  | .cent => Sys2Proof.Machine.execCent s
  | .cext => Sys2Proof.Machine.execCext s
  -- Line Controller
  | .dir a err => Sys2Proof.Machine.execDir a err s
  | .lvl a => Sys2Proof.Machine.execLvl a s
  -- Timing Engine
  | .dly imm => Sys2Proof.Machine.execDly imm s
  | .wait a imm err => Sys2Proof.Machine.execWait a imm err s
  | .waitm a imm err => Sys2Proof.Machine.execWaitm a imm err s
  -- Sequencer
  | .loop tgt cnt => Sys2Proof.Machine.execLoop tgt cnt s
  -- Frame Decoder
  | .dec imm => Sys2Proof.Machine.execDec imm s
  | .val => Sys2Proof.Machine.execVal s
  | .cvt => Sys2Proof.Machine.execCvt s
  -- Sequencer
  | .endOp => Sys2Proof.Machine.execEnd s

end Sys2Proof.Machine
end

