-- ==== Sys2Proof/Machine/Environment.lean ====
section
/-! DEFINITION. The moves of the host and the environment (10_state.md R36): START (43_sequencer.md R150, R151), `rst`
(70_reset_and_hazards.md R210, R211) and preemption (R220), and when they are due (log 2). -/

namespace Sys2Proof.Machine

/-- START (R150, R151): the request, with the pin as the port carries it, the per-read clear, and the oracles of the new read. `DIR`, `OUT`, `CRIT`, `S` and `B`
are not written. -/
def startRead (pin : PinId) (env : Env) (s : State) : State :=
  { s with
    pin := pinOnPort s.pinW pin
    busy := true
    done := false
    err := .none
    i := 0
    e := 0
    hum := 0
    tmp := 0
    chk := 0
    t := 0
    upc := 0
    upcOver := false
    env := env
    cfgLog := []
    lineBase := s.lineCond
    lineLog := [] }

/-- `rst` (R210, R211, R39): `PIN`, `S` and `B` take free values (log 7); the ROM, `PIN_W` and the environment are not registers.
That the records of the read (logs 13 and 14) are emptied, on a released line, and the release at the tick of the `rst` is not
entered in them, is the model's choice (DESIGN CHOICE, log 29): R103, R210 and R211 do not say. -/
def assertRst (s : State) : State :=
  { s with
    e := 0
    i := 0
    upc := 0
    upcOver := false
    busy := false
    done := false
    crit := false
    err := .none
    dir := .input
    out := .high
    pin := pinOnPort s.pinW (Config.freePin s.draws)
    samples := Vector.ofFn (Config.freeSample s.draws)
    frame := Vector.ofFn (Config.freeByte s.draws)
    hum := 0
    tmp := 0
    chk := 0
    t := 0
    cfgLog := []
    lineBase := .released
    lineLog := []
    draws := s.draws + 1 }

/-- What a move does: START is enabled only while `BUSY = 0` (R165, U5; log 4), and the model says nothing of a read that
was preempted (R220, U6; log 5). -/
def makeMove (m : HostMove) (s : State) : Host.Outcome State Fault Refusal :=
  match m with
  | .start pin env => if s.busy then .refused .startWhileBusy else .next (startRead pin env s)
  | .rst => .next (assertRst s)
  | .preempt => if s.busy then .refused .preempted else .next s

/-- The move that is due now, if there is one. -/
def dueMove (s : State) : Option HostMove :=
  match s.inbox with
  | ⟨0, m⟩ :: _ => some m
  | _ => Option.none

/-- The inbox after this step: a due move is taken out, else the first move comes one step nearer. -/
def inboxAfter : List Arrival → List Arrival
  | [] => []
  | ⟨0, _⟩ :: rest => rest
  | ⟨n + 1, m⟩ :: rest => ⟨n, m⟩ :: rest

def takeInbox (s : State) : State := { s with inbox := inboxAfter s.inbox }

end Sys2Proof.Machine
end

