-- ==== Sys2Proof/Machine/Fetch.lean ====
section
/-! DEFINITION. Fetching a micro-operation (30_encoding.md R76, 43_sequencer.md R152), and placing a word where the next
fetch reads it. -/

namespace Sys2Proof.Machine

/-- `ROM[a]`. -/
def romWord (rom : Vector UWord Config.romDepth) (a : Addr) : UWord := rom[a.toNat]'a.isLt

/-- `ROM[UPC]`, decoded (R76): past address 31 `fault(UpcOverflow)` (R19), an illegal word `fault(IllegalMicroOp)` (R78). -/
def fetch (s : State) : Except Fault Instr :=
  if s.upcOver then .error .upcOverflow
  else match decode (romWord s.rom s.upc) with
    | .ok i => .ok i
    | .error _ => .error .illegalMicroOp

/-- The word `w` at `ROM[UPC]`, a read in progress and no move of the host due (log 9). -/
def placeWord (w : UWord) (s : State) : State :=
  { s with
    rom := s.rom.set s.upc.toNat w s.upc.isLt
    upcOver := false
    busy := true
    inbox := [] }

end Sys2Proof.Machine
end

