-- ==== Sys2Proof/Machine/Step.lean ====
section
/-! DEFINITION. One step of the machine: a move of the host that is due, else one step of the Sequencer (43_sequencer.md
R152); Idle with nothing due, the machine stays as it is (R161; log 3). -/

namespace Sys2Proof.Machine

/-- The Sequencer's step (R152), taken whenever `BUSY = 1`. -/
def sequencerStep (s : State) : Host.Outcome State Fault Refusal :=
  if s.busy then
    match fetch s with
    | .ok i => exec i s
    | .error f => .fault f
  else .next s

def step (s : State) : Host.Outcome State Fault Refusal :=
  match dueMove s with
  | some m => makeMove m (takeInbox s)
  | Option.none => sequencerStep (takeInbox s)

/-- `s` with the word `w`, numbered as spec/opcode_table.json numbers it, where the next step fetches (log 9, log 23). -/
def State.withFetchWord (s : State) (nbits w : Nat) : State :=
  placeWord (BitVec.ofNat 24 (w % 2 ^ nbits)) s

end Sys2Proof.Machine
end

