-- ==== Sys2Proof/Machine/Assembler.lean ====
section
/-! DEFINITION. The textual form of a micro-operation (30_encoding.md R80) and the pseudo-instructions, which are shorthand for
words of the canonical program and have no encoding of their own (R81). -/

namespace Sys2Proof

/-! ## The textual form (R80) -/

/-- The mnemonic of a micro-operation (R72). -/
def Instr.mnemonic : Instr → String
  | .cent => "CENT"
  | .cext => "CEXT"
  | .dir _ _ => "DIR"
  | .lvl _ => "LVL"
  | .dly _ => "DLY"
  | .wait _ _ _ => "WAIT"
  | .waitm _ _ _ => "WAITM"
  | .loop _ _ => "LOOP"
  | .dec _ => "DEC"
  | .val => "VAL"
  | .cvt => "CVT"
  | .endOp => "END"

def Level.text : Level → String
  | .low => "Low"
  | .high => "High"

def Direction.text : Direction → String
  | .input => "Input"
  | .output => "Output"

/-- The source's names of the errors (60_exceptions.md R181). -/
def ErrorKind.text : ErrorKind → String
  | .none => "None"
  | .invalidConfiguration => "InvalidConfiguration"
  | .responseTimeout => "ResponseTimeout"
  | .getReadyTimeout => "GetReadyTimeout"
  | .startReadBitTimeout => "StartReadBitTimeout"
  | .readBitTimeout => "ReadBitTimeout"
  | .checksum => "Checksum"

/-- A number in decimal. -/
def numberText (n : Nat) : String := toString n

/-- The operands in the order of R80: `a`, `imm`, `err`; `LOOP` writes its target and its count. -/
def Instr.operandTexts : Instr → List String
  | .cent => []
  | .cext => []
  | .dir a err => [a.text, err.text]
  | .lvl a => [a.text]
  | .dly imm => [numberText imm.toNat]
  | .wait a imm err => [a.text, numberText imm.toNat, err.text]
  | .waitm a imm err => [a.text, numberText imm.toNat, err.text]
  | .loop tgt cnt => [numberText tgt.toNat, numberText cnt.toNat]
  | .dec imm => [numberText imm.toNat]
  | .val => []
  | .cvt => []
  | .endOp => []

/-- Operands separated by a comma and a space. -/
def joinOperands : List String → String
  | [] => ""
  | [x] => x
  | x :: y :: rest => x ++ ", " ++ joinOperands (y :: rest)

/-- The line of a micro-operation (R80). -/
def Instr.text (i : Instr) : String :=
  match i.operandTexts with
  | [] => i.mnemonic
  | xs => i.mnemonic ++ " " ++ joinOperands xs

end Sys2Proof

namespace Sys2Proof.Machine

/-! ## Pseudo-instructions (R81) -/

/-- The four pseudo-instructions of R81. -/
inductive Pseudo
  | startpulse
  | handshake
  | bit
  | read
deriving DecidableEq, Repr

/-- `STARTPULSE`: words 1 to 6 (R81). -/
def expandStartpulse (p : Config.Params) : List Instr :=
  [ .dir .output .invalidConfiguration, .lvl .low, .dly p.startLowUs, .lvl .high, .dly p.startHighUs
  , .dir .input .invalidConfiguration ]

/-- `HANDSHAKE`: words 7 and 8 (R81). -/
def expandHandshake (p : Config.Params) : List Instr :=
  [.wait .low p.responseTimeoutUs .responseTimeout, .wait .high p.readyTimeoutUs .getReadyTimeout]

/-- `BIT`: words 9 and 10 (R81). -/
def expandBit (p : Config.Params) : List Instr :=
  [.wait .low p.bitStartTimeoutUs .startReadBitTimeout, .waitm .high p.bitMeasureTimeoutUs .readBitTimeout]

/-- `READ`: the whole canonical program (R81). -/
def expandRead (p : Config.Params) : List Instr :=
  [.cent] ++ expandStartpulse p ++ expandHandshake p ++ expandBit p ++
    [.loop 9 40, .dec p.bitThresholdUs, .val, .cvt, .cext, .endOp]

/-- The expansion of a pseudo-instruction under the protocol constants `p` (R81). -/
def Pseudo.expand (p : Config.Params) : Pseudo → List Instr
  | .startpulse => expandStartpulse p
  | .handshake => expandHandshake p
  | .bit => expandBit p
  | .read => expandRead p

end Sys2Proof.Machine
end

