-- ==== Sys2Proof/Safety.lean ====
section
/-! DEFINITION. The terms in which claims about CORE are stated: the spec's own tables and functions written a second time,
from the spec and not from the machine (30_encoding.md R73, 41_timing_engine.md R113, 43_sequencer.md R162), and the
invariants of the state (10_state.md R40, 40_line_controller.md R103). -/

namespace Sys2Proof

/-! ## The rows of the opcode table (R73) -/

/-- A row of R73: a mnemonic, its pattern of fixed bits under a mask, and whether `err` and `imm` are constrained. -/
structure TableRow where
  mnemonic : String
  pattern : UWord
  mask : UWord
  errIn1To6 : Bool
  immAtMost65534 : Bool
deriving DecidableEq, Repr

/-- The twelve rows of R73. -/
def tableRows : List TableRow :=
  [ ⟨"CENT", 0x100000, 0xFFFFFF, false, false⟩
  , ⟨"CEXT", 0x200000, 0xFFFFFF, false, false⟩
  , ⟨"DIR", 0x300000, 0xF0FFFF, true, false⟩
  , ⟨"LVL", 0x400000, 0xF7FFFF, false, false⟩
  , ⟨"DLY", 0x500000, 0xFF0000, false, false⟩
  , ⟨"WAIT", 0x600000, 0xF00000, true, true⟩
  , ⟨"WAITM", 0x700000, 0xF00000, true, true⟩
  , ⟨"LOOP", 0x800000, 0xFF00E0, false, false⟩
  , ⟨"DEC", 0x900000, 0xFF0000, false, false⟩
  , ⟨"VAL", 0xA00000, 0xFFFFFF, false, false⟩
  , ⟨"CVT", 0xB00000, 0xFFFFFF, false, false⟩
  , ⟨"END", 0xC00000, 0xFFFFFF, false, false⟩ ]

/-- `(w and mask) = match` and the row's constraint (R73), the fields cut out by arithmetic: `err` is bits 18:16 and `imm`
bits 15:0 (R70). -/
def TableRow.covers (r : TableRow) (w : UWord) : Prop :=
  w &&& r.mask = r.pattern ∧
    (r.errIn1To6 = true → 1 ≤ w.toNat / 65536 % 8 ∧ w.toNat / 65536 % 8 ≤ 6) ∧
    (r.immAtMost65534 = true → w.toNat % 65536 ≤ 65534)

/-- The illegal words as R78 lists them, by the fields of R70 and R71: `op` is bits 23:20, `a` bit 19, `err` bits 18:16,
`imm` bits 15:0, and `imm[7:5]` bits 7:5. -/
def illegalWord (w : UWord) : Prop :=
  let op := w.toNat / 1048576
  let a := w.toNat / 524288 % 2
  let err := w.toNat / 65536 % 8
  let imm := w.toNat % 65536
  op ∈ [0x0, 0xD, 0xE, 0xF] ∨
    (op ∉ [0x3, 0x4, 0x6, 0x7] ∧ a ≠ 0) ∨
    (op ∉ [0x3, 0x6, 0x7] ∧ err ≠ 0) ∨
    (op ∉ [0x5, 0x6, 0x7, 0x8, 0x9] ∧ imm ≠ 0) ∨
    (op ∈ [0x3, 0x6, 0x7] ∧ (err = 0 ∨ err = 7)) ∨
    (op ∈ [0x6, 0x7] ∧ imm = 65535) ∨
    (op = 0x8 ∧ imm / 32 % 8 ≠ 0)

end Sys2Proof

namespace Sys2Proof.Machine

/-! ## States up to what a micro-operation does not touch -/

/-- `UPC <- UPC + 1` (R19), for an address below 31. -/
def upcPlusOne (s : State) : State := { s with upc := s.upc + 1, upcOver := false }

/-- A state without the model's records of `Configure` calls and of the line (logs 13 and 14): what is left is the spec's
state, the environment and the inbox. -/
def State.withoutRecords (s : State) : State := { s with cfgLog := [], lineBase := .released, lineLog := [] }

/-- A state without `UPC`. -/
def State.withoutUpc (s : State) : State := { s with upc := 0, upcOver := false }

/-- The meanings of a list of micro-operations one after the other. -/
def execAll : List Instr → State → Host.Outcome State Fault Refusal
  | [], s => .next s
  | i :: is, s =>
    match exec i s with
    | .next s1 => execAll is s1
    | .fault f => .fault f
    | .refused r => .refused r

/-! ## Waiting (R113) -/

/-- `Ok(n)` of R113: the line is at `target` at tick `t0 + n`, at no tick before it since `t0`, and `n <= timeout`. -/
def SeenAfter (lin : Trace) (t0 : Nat) (target : Level) (timeout n : Nat) : Prop :=
  n ≤ timeout ∧ (∀ k, k < n → lin.levelAt (t0 + k) ≠ target) ∧ lin.levelAt (t0 + n) = target

/-- `Timeout` of R113: the line is not at `target` at any tick from `t0` to `t0 + timeout`. -/
def NeverSeen (lin : Trace) (t0 : Nat) (target : Level) (timeout : Nat) : Prop :=
  ∀ k, k ≤ timeout → lin.levelAt (t0 + k) ≠ target

/-! ## The read as a function (R162) -/

/-- `Wait(lin, t, target, timeout)` of R162: the least such number of ticks, if there is one. -/
def specWait (lin : Trace) (t : Nat) (target : Level) (timeout : Nat) : Option Nat :=
  (List.range (timeout + 1)).find? fun n => lin.levelAt (t + n) == target

/-- The loop of R162 over `n` bits from tick `t`: the samples, or the error of the first wait that fails. -/
def specSamples (p : Config.Params) (lin : Trace) : Nat → Nat → Except ErrorKind (List Nat)
  | 0, _ => .ok []
  | n + 1, t =>
    match specWait lin t .low p.bitStartTimeoutUs.toNat with
    | Option.none => .error .startReadBitTimeout
    | some a =>
      match specWait lin (t + a) .high p.bitMeasureTimeoutUs.toNat with
      | Option.none => .error .readBitTimeout
      | some b =>
        match specSamples p lin n (t + a + b) with
        | .ok rest => .ok (b :: rest)
        | .error e => .error e

/-- Byte `k` of the samples' bits (R130): bit `8k + j` counts `2 ^ (7 - j)`. -/
def specByte (thr : Nat) (samples : List Nat) (k : Nat) : Nat :=
  ((List.range 8).map fun j => if thr < samples.getD (8 * k + j) 0 then 2 ^ (7 - j) else 0).sum

/-- The Measurement of a read that failed with `e` (R189). -/
def failedMeasurement (e : ErrorKind) : Measurement := ⟨0, 0, 0, e⟩

/-- The Measurement of a read whose 40 samples are in (R162). -/
def specMeasurement (p : Config.Params) (samples : List Nat) : Measurement :=
  let b := specByte p.bitThresholdUs.toNat samples
  { hum := BitVec.ofNat 12 (10 * b 0 + b 1)
    tmp := BitVec.ofNat 12 (10 * b 2 + b 3)
    chk := BitVec.ofNat 8 (b 4)
    err := if (b 0 + b 1 + b 2 + b 3) % 256 = b 4 then .none else .checksum }

/-- The part of R162 after the start pulse, from tick `t` on. -/
def specAfterPulse (p : Config.Params) (lin : Trace) (t : Nat) : Measurement :=
  match specWait lin t .low p.responseTimeoutUs.toNat with
  | Option.none => failedMeasurement .responseTimeout
  | some a =>
    match specWait lin (t + a) .high p.readyTimeoutUs.toNat with
    | Option.none => failedMeasurement .getReadyTimeout
    | some b =>
      match specSamples p lin Config.nBits (t + a + b) with
      | .error e => failedMeasurement e
      | .ok samples => specMeasurement p samples

/-- `Read(cfg, lin)` (R162). -/
def specRead (p : Config.Params) (env : Env) : Measurement :=
  match env.cfgAt 0 with
  | .configError => failedMeasurement .invalidConfiguration
  | .ok =>
    match env.cfgAt 1 with
    | .configError => failedMeasurement .invalidConfiguration
    | .ok => specAfterPulse p env.lin (p.startLowUs.toNat + p.startHighUs.toNat)

/-! ## Invariants -/

/-- What holds in every state of a run of the canonical micro-program with the default parameters: the clauses (a) to (g)
of R40, and what they need to be kept by every step. `u` is `UPC`. -/
structure CanonicalInv (s : State) : Prop where
  rom : s.rom = canonicalRom Config.defaults
  inRom : s.upcOver = false ∧ s.upc.toNat ≤ 16
  /-- R19: "When `BUSY = 0`, `UPC = 0`". -/
  idle : s.busy = false → s.upc = 0
  /-- R40 (a), with R17 at the addresses around the loop. -/
  index : s.i.toNat ≤ 40
  indexBefore : s.busy = true → s.upc.toNat ≤ 8 → s.i = 0
  indexLoop : s.busy = true → 9 ≤ s.upc.toNat → s.upc.toNat ≤ 11 → s.i.toNat ≤ 39
  indexAfter : s.busy = true → 12 ≤ s.upc.toNat → s.upc.toNat ≤ 14 → s.i = 40
  /-- R40 (b). -/
  elapsed : s.e.toNat ≤ 20000
  /-- R40 (c). -/
  samples : ∀ k : Fin Config.nBits,
    (k.val < s.i.toNat ∨ (k.val = s.i.toNat ∧ s.busy = true ∧ s.upc.toNat = 11)) → s.samples[k].toNat ≤ 70
  /-- R40 (d). -/
  critHeld : s.busy = true → 1 ≤ s.upc.toNat → s.upc.toNat ≤ 15 → s.crit = true
  critFree : s.busy = false ∨ s.upc.toNat = 0 ∨ s.upc.toNat = 16 → s.crit = false
  /-- R40 (e), with the level driven. -/
  pulse : s.busy = true → 2 ≤ s.upc.toNat → s.upc.toNat ≤ 6 → s.dir = .output
  waits : s.busy = true → 7 ≤ s.upc.toNat → s.upc.toNat ≤ 14 → s.dir = .input
  stuckOutput : s.dir = .output → s.busy = false ∨ 15 ≤ s.upc.toNat → s.err = .invalidConfiguration
  level : s.out = if s.busy = true ∧ 3 ≤ s.upc.toNat ∧ s.upc.toNat ≤ 4 then .low else .high
  /-- R40 (f). -/
  noErrorYet : s.busy = true → s.upc.toNat ≤ 13 → s.err = .none
  afterVal : s.busy = true → s.upc.toNat = 14 → s.err = .none ∨ s.err = .checksum
  /-- R40 (g). -/
  doneIdle : s.done = true → s.busy = false
  /-- R35: the results are 0 until `CVT`, `CHK` until `VAL` (D35; log 11), and all after an error that aborted. -/
  zeroBefore : s.busy = true → s.upc.toNat ≤ 14 → s.hum = 0 ∧ s.tmp = 0
  chkZeroBefore : s.busy = true → s.upc.toNat ≤ 13 → s.chk = 0
  zeroFailed : s.err ≠ .none → s.err ≠ .checksum → s.hum = 0 ∧ s.tmp = 0 ∧ s.chk = 0

/-- Neighbouring entries of a record of the line (newest first) differ, the oldest from `base`: each is a change. -/
def changesDiffer (base : LineCond) : List (Nat × LineCond) → Prop
  | [] => True
  | (_, c) :: rest => c ≠ lastCond base rest ∧ changesDiffer base rest

/-- The record of the line is right (R103, R64): it ends in the line's present condition, its ticks strictly rise and are not
in the future, and each entry is a change. -/
structure LineRecordInv (s : State) : Prop where
  last : lastCond s.lineBase s.lineLog = s.lineCond
  past : ∀ x ∈ s.lineLog, x.1 ≤ s.t
  rising : s.lineLog.Pairwise fun x y => y.1 < x.1
  changes : changesDiffer s.lineBase s.lineLog

/-- `PIN` fits its width (R28, R8; log 16). -/
def PinFits (s : State) : Prop := s.pin < 2 ^ s.pinW

/-- No `Configure` call in the record is in the future (R95; log 13). -/
def CallsInThePast (s : State) : Prop := ∀ c ∈ s.cfgLog, c.tick ≤ s.t

end Sys2Proof.Machine
end

