-- ==== Sys2Proof/Certificates/Slice0/Obligations.lean ====
section
/-! DEFINITION. The statements about CORE for the provers. Each docstring names the rule of spec/ it formalises, or the log
entry a clause rests on. -/

open Sys2Proof Sys2Proof.Machine

/-! ## Sequencer (43_sequencer.md) -/

/-- R153: `CENT` sets `CRIT` and falls through; nothing else changes. -/
def Obligations.CentEntersTheCriticalSection : Prop :=
  ∀ s : State, s.upc ≠ 31 → exec .cent s = .next (upcPlusOne { s with crit := true })

/-- R154: `CEXT` clears `CRIT` and falls through; nothing else changes. -/
def Obligations.CextLeavesTheCriticalSection : Prop :=
  ∀ s : State, s.upc ≠ 31 → exec .cext s = .next (upcPlusOne { s with crit := false })

/-- R155: `LOOP` counts in `I`, goes to its target while the new `I` is below the count, else falls through, and faults at 63. -/
def Obligations.LoopCountsAndBranches : Prop :=
  ∀ (tgt : Addr) (cnt : BitVec 8) (s : State),
    (s.i.toNat = 63 → exec (.loop tgt cnt) s = .fault .indexOverflow) ∧
    (s.i.toNat < 63 → s.i.toNat + 1 < cnt.toNat →
      exec (.loop tgt cnt) s = .next { s with i := s.i + 1, upc := tgt, upcOver := false }) ∧
    (s.i.toNat < 63 → cnt.toNat ≤ s.i.toNat + 1 → s.upc ≠ 31 →
      exec (.loop tgt cnt) s = .next (upcPlusOne { s with i := s.i + 1 }))

/-- R156: `END` makes CORE Idle with its result handed over; nothing else changes. -/
def Obligations.EndHandsTheResultOver : Prop :=
  ∀ s : State, exec .endOp s = .next { s with busy := false, done := true, upc := 0, upcOver := false }

/-- R19: a micro-operation below address 31 goes to `UPC + 1`, to the target of its `LOOP`, to `EPILOGUE` with the error it
carries in `ERR` (whichever that is, log 15), or (`END`) to 0. -/
def Obligations.UpcGoesOnToATargetOrToTheEpilogue : Prop :=
  ∀ (i : Instr) (s t : State), s.upc ≠ 31 → exec i s = .next t →
    t.upcOver = false ∧
      ((t.upc = s.upc + 1 ∧ i ≠ .endOp) ∨
        (∃ tgt cnt, i = .loop tgt cnt ∧ t.upc = tgt) ∨
        (∃ e, t.upc = 15 ∧ t.err = e ∧
          ((∃ a, i = .dir a e) ∨ (∃ a n, i = .wait a n e) ∨ (∃ a n, i = .waitm a n e))) ∨
        (i = .endOp ∧ t.upc = 0))

/-- R19 and vector T59e, in the form of log 10 (the model's flag `upcOver`): from address 31 a fall-through does not wrap, and
the next fetch is `fault(UpcOverflow)`; a `LOOP` taken, an abort (log 15) and `END` go where they go from any address. -/
def Obligations.FallThroughFrom31FaultsAtTheNextFetch : Prop :=
  ∀ (i : Instr) (s t : State), s.upc = 31 → exec i s = .next t →
    (t.upcOver = true ∧ t.upc = 31 ∧
      (t.busy = true → dueMove t = Option.none → step t = .fault .upcOverflow)) ∨
    (t.upcOver = false ∧
      ((∃ tgt cnt, i = .loop tgt cnt ∧ t.upc = tgt) ∨
        (∃ e, t.upc = 15 ∧ t.err = e ∧
          ((∃ a, i = .dir a e) ∨ (∃ a n, i = .wait a n e) ∨ (∃ a n, i = .waitm a n e))) ∨
        (i = .endOp ∧ t.upc = 0)))

/-- What a micro-operation does does not depend on the address it stands at (R19, R200): it completes from one address if it
completes from another, with the same state but for `UPC`. Address 31 is included in the model's form of log 10 (DEDUCED): R19
calls a fall-through from 31 the fault, and in the model the micro-operation at 31 completes with its effect and the fault is
the next fetch's. -/
def Obligations.EffectDoesNotDependOnTheAddress : Prop :=
  ∀ (i : Instr) (s t : State) (a : Addr) (past : Bool), exec i s = .next t →
    ∃ t', exec i { s with upc := a, upcOver := past } = .next t' ∧ t'.withoutUpc = t.withoutUpc

/-! ## Line Controller (40_line_controller.md) -/

/-- R101, R98: `DIR` applies the direction when this `Configure` call is answered `Ok`, and the line then carries `OUT` or is
released; on `ConfigError` it aborts with its error and the line is as it was. That the error may be any of the codes 1 to 6,
`Checksum` among them, is log 15. The records of logs 13 and 14 are left out. -/
def Obligations.DirAppliesTheDirectionOrAborts : Prop :=
  ∀ (a : Direction) (err : ErrorKind) (s : State), err.isError = true →
    (s.env.cfgAt s.cfgLog.length = .ok → s.upc ≠ 31 →
      ∃ t, exec (.dir a err) s = .next t ∧
        t.withoutRecords = (upcPlusOne { s with dir := a }).withoutRecords ∧
        t.lineCond = if a = .output then .driven s.out else .released) ∧
    (s.env.cfgAt s.cfgLog.length = .configError →
      ∃ t, exec (.dir a err) s = .next t ∧
        t.withoutRecords = State.withoutRecords { s with err := err, upc := 15, upcOver := false } ∧
        t.lineCond = s.lineCond)

/-- R102, R99: `LVL` drives the line to its level while `DIR = Output`, and is `fault(LevelWriteWhileInput)` otherwise. The
record of log 14 is left out. -/
def Obligations.LvlDrivesTheLine : Prop :=
  ∀ (a : Level) (s : State),
    (s.dir = .output → s.upc ≠ 31 →
      ∃ t, exec (.lvl a) s = .next t ∧
        t.withoutRecords = (upcPlusOne { s with out := a }).withoutRecords ∧
        t.lineCond = .driven a) ∧
    (s.dir = .input → exec (.lvl a) s = .fault .levelWriteWhileInput)

/-- R28, R95 in the form of log 13: a `DIR` makes one `Configure` call, with the pin of the read and the direction it asks,
answered by `cfg` of the call's number; no other micro-operation calls `Configure`. -/
def Obligations.ConfigureIsCalledByDirAloneWithThePin : Prop :=
  ∀ (i : Instr) (s t : State), exec i s = .next t →
    (∀ a e, i = .dir a e → t.cfgLog = ⟨s.t, s.pin, a, s.env.cfgAt s.cfgLog.length⟩ :: s.cfgLog) ∧
    ((∀ a e, i ≠ .dir a e) → t.cfgLog = s.cfgLog)

/-- R36, R95 in the form of log 13: the strobe of a `Configure` call stands, with its direction, once a `DIR` of a read in
progress has made the call; another micro-operation leaves it while the read goes on at the same tick; it is gone when the tick
is over, and when CORE is Idle. The output ports show it. -/
def Obligations.ConfigureStrobeIsPulsed : Prop :=
  ∀ (i : Instr) (s t : State), CallsInThePast s → exec i s = .next t →
    (∀ a e, i = .dir a e → s.busy = true → t.dirReq = some a) ∧
    ((∀ a e, i ≠ .dir a e) → t.busy = true → t.t = s.t → t.dirReq = s.dirReq) ∧
    (s.t < t.t → t.dirReq = Option.none) ∧
    (t.busy = false → t.dirReq = Option.none) ∧
    t.ports.gpioDirReq = t.dirReq

/-- Every step keeps the record of the `Configure` calls free of calls in the future (log 13). -/
def Obligations.StepKeepsCallsInThePast : Prop :=
  ∀ s t : State, CallsInThePast s → step s = .next t → CallsInThePast t

/-- After reset there is no `Configure` call in the record (log 13), and no strobe stands. -/
def Obligations.CallsInThePastHoldsAtReset : Prop :=
  CallsInThePast State.reset ∧ State.reset.dirReq = Option.none

/-- R103, R64 in the form of log 14: every step keeps the record of the line right. -/
def Obligations.StepKeepsTheLineRecord : Prop :=
  ∀ s t : State, LineRecordInv s → step s = .next t → LineRecordInv t

/-- The record of the line is right after reset (log 14). -/
def Obligations.LineRecordHoldsAtReset : Prop := LineRecordInv State.reset

/-- R86, R103 in the form of log 14: from a START of the canonical program on a line not held `Low`, when both `Configure`
calls succeed, the start pulse is on the line after START and seven micro-operations, and no change follows it to the end of
the read; the steps after `END` are idle steps (log 3). -/
def Obligations.StartPulseIsOnTheLine : Prop :=
  ∀ (s : State) (pin : PinId) (env : Env),
    s.rom = canonicalRom Config.defaults → s.busy = false → s.inbox = [⟨0, .start pin env⟩] →
    s.lineCond ≠ .driven .low → env.cfgAt 0 = .ok → env.cfgAt 1 = .ok →
    (∃ t : State, Sys2Proof.core.run 8 s = .next t ∧ t.upc = 7 ∧ t.t = 20040 ∧ t.dir = .input ∧
      t.lineRecord = [(0, .driven .low), (20000, .driven .high), (20040, .released)]) ∧
    (∃ t : State, Sys2Proof.core.run 135 s = .next t ∧ t.busy = false ∧
      t.lineRecord = [(0, .driven .low), (20000, .driven .high), (20040, .released)])

/-! ## Timing Engine (41_timing_engine.md) -/

/-- R114: `DLY` lets its ticks pass, leaves them in `E` and falls through; nothing else changes. -/
def Obligations.DlyLetsItsTicksPass : Prop :=
  ∀ (imm : Count) (s : State), s.upc ≠ 31 →
    exec (.dly imm) s = .next (upcPlusOne { s with t := s.t + imm.toNat, e := imm })

/-- R113: `WaitForLevel` answers `Ok` and `Timeout` exactly when the line says so, with `E` and `T` as given, asks the line
only at the ticks `T0` to `T0 + timeout`, and always ends. -/
def Obligations.WaitForLevelAnswersByTheLine : Prop :=
  ∀ (target : Level) (timeout : Count) (s : State), timeoutAllowed timeout = true → s.dir = .input →
    (∀ n, (∃ t, waitForLevel target timeout s = .ok (.ok n, t)) ↔ SeenAfter s.env.lin s.t target timeout.toNat n) ∧
    ((∃ t, waitForLevel target timeout s = .ok (.timeout, t)) ↔ NeverSeen s.env.lin s.t target timeout.toNat) ∧
    (∀ n t, waitForLevel target timeout s = .ok (.ok n, t) →
      t.e.toNat = n ∧ t = { s with e := t.e, t := s.t + n }) ∧
    (∀ t, waitForLevel target timeout s = .ok (.timeout, t) →
      t.e.toNat = timeout.toNat + 1 ∧ t = { s with e := t.e, t := s.t + timeout.toNat + 1 }) ∧
    (∃ r, waitForLevel target timeout s = .ok r) ∧
    (∀ lin : Trace, (∀ k, k ≤ timeout.toNat → lin.levelAt (s.t + k) = s.env.lin.levelAt (s.t + k)) →
      ∀ r t, waitForLevel target timeout s = .ok (r, t) →
        ∃ t', waitForLevel target timeout { s with env := { s.env with lin := lin } } = .ok (r, t'))

/-- R115: `WAIT` falls through when the level is seen and aborts with its error on a timeout; `E` and `T` are the wait's. That
the error may be any of the codes 1 to 6, `Checksum` among them, is log 15. -/
def Obligations.WaitSeesItsLevelOrAborts : Prop :=
  ∀ (a : Level) (imm : Count) (err : ErrorKind) (s : State),
    err.isError = true → timeoutAllowed imm = true → s.dir = .input →
    (∀ n, SeenAfter s.env.lin s.t a imm.toNat n → s.upc ≠ 31 →
      exec (.wait a imm err) s = .next (upcPlusOne { s with e := BitVec.ofNat 16 n, t := s.t + n })) ∧
    (NeverSeen s.env.lin s.t a imm.toNat →
      exec (.wait a imm err) s =
        .next { s with e := imm + 1, t := s.t + imm.toNat + 1, err := err, upc := 15, upcOver := false })

/-- R116: `WAITM` does as `WAIT` and writes the elapsed count to `S[I]`; with `I >= 40` it is `fault(SampleIndexOutOfRange)`
when the level is seen; on a timeout no sample is written. That a timeout aborts and does not fault with `I >= 40` as well is
log 12 (DEDUCED), and that the error may be any of the codes 1 to 6 is log 15. -/
def Obligations.WaitmRecordsTheElapsedCount : Prop :=
  ∀ (a : Level) (imm : Count) (err : ErrorKind) (s : State),
    err.isError = true → timeoutAllowed imm = true → s.dir = .input →
    (∀ n, SeenAfter s.env.lin s.t a imm.toNat n → s.upc ≠ 31 → ∀ h : s.i.toNat < 40,
      exec (.waitm a imm err) s =
        .next (upcPlusOne { s with e := BitVec.ofNat 16 n, t := s.t + n,
                                   samples := s.samples.set s.i.toNat (BitVec.ofNat 16 n) h })) ∧
    (∀ n, SeenAfter s.env.lin s.t a imm.toNat n → 40 ≤ s.i.toNat →
      exec (.waitm a imm err) s = .fault .sampleIndexOutOfRange) ∧
    (NeverSeen s.env.lin s.t a imm.toNat →
      exec (.waitm a imm err) s =
        .next { s with e := imm + 1, t := s.t + imm.toNat + 1, err := err, upc := 15, upcOver := false })

/-- R100: the line is read as `lin(T)` while `DIR = Input`, and reading it while `DIR = Output` is
`fault(LevelReadWhileOutput)`, which is what `WAIT` and `WAITM` then end in. -/
def Obligations.LineIsReadWhileInputOnly : Prop :=
  ∀ s : State,
    (s.dir = .input → getLevel s = .ok (s.env.lin.levelAt s.t)) ∧
    (s.dir = .output → getLevel s = .error .levelReadWhileOutput) ∧
    (∀ a imm err, s.dir = .output →
      exec (.wait a imm err) s = .fault .levelReadWhileOutput ∧
      exec (.waitm a imm err) s = .fault .levelReadWhileOutput)

/-- R230: the ticks each micro-operation takes; a wait takes `n` when its level is first seen after `n` ticks inside the budget
and `imm + 1` when it never is, and `E` is that number (R113). The error of the abort is the one the word carries (log 15). -/
def Obligations.OnlyDelaysAndWaitsTakeTicks : Prop :=
  ∀ (i : Instr) (s t : State), i.wf = true → exec i s = .next t →
    (∀ n, i = .dly n → t.t = s.t + n.toNat) ∧
    (∀ a imm err, i = .wait a imm err ∨ i = .waitm a imm err →
      t.t = s.t + t.e.toNat ∧
        (∀ n, SeenAfter s.env.lin s.t a imm.toNat n → t.e.toNat = n ∧ n ≤ imm.toNat) ∧
        (NeverSeen s.env.lin s.t a imm.toNat → t.e.toNat = imm.toNat + 1 ∧ t.upc = 15 ∧ t.err = err) ∧
        (t.e.toNat ≤ imm.toNat ∨ (t.e.toNat = imm.toNat + 1 ∧ t.upc = 15 ∧ t.err = err))) ∧
    ((∀ n, i ≠ .dly n) → (∀ a imm err, i ≠ .wait a imm err ∧ i ≠ .waitm a imm err) → t.t = s.t)

/-! ## Frame Decoder (42_frame_decoder.md) -/

/-- R131, R55, R117: `DEC` puts the bit of sample `i` (1 exactly when it is above the threshold) at bit `7 - (i mod 8)` of byte
`i div 8`, whatever `I` is, and falls through; nothing else changes. -/
def Obligations.DecPacksTheClassifiedSamples : Prop :=
  ∀ (thr : Count) (s : State), s.upc ≠ 31 →
    ∃ t, exec (.dec thr) s = .next t ∧ t = upcPlusOne { s with frame := t.frame } ∧
      ∀ (k : Fin Config.nBytes) (j : Fin 8) (h : 8 * k.val + j.val < Config.nBits),
        t.frame[k].getLsbD (7 - j.val) = decide (thr.toNat < (s.samples[8 * k.val + j.val]'h).toNat)

/-- R130: `Pack` is the sum of the rule, and a bijection between 40-bit sequences and 5-byte frames. -/
def Obligations.PackIsTheSumAndABijection : Prop :=
  (∀ (bits : Vector Bool Config.nBits) (k : Fin Config.nBytes),
    (pack bits)[k].toNat =
      ((List.range 8).map fun j => (bits[8 * k.val + j]?.getD false).toNat * 2 ^ (7 - j)).sum) ∧
  Function.Bijective pack

/-- R133, R132, R195: `VAL` writes `Checksum` to `ERR` exactly on a mismatch, does not abort and falls through, with `CHK` a copy of
`B[4]` in both cases; nothing else changes. That `CHK` is written is D35's word, which R133's pseudocode leaves out (log 11,
DEDUCED). -/
def Obligations.ValReportsAMismatch : Prop :=
  ∀ s : State, s.upc ≠ 31 →
    exec .val s = .next (upcPlusOne { s with
      err := if (s.frame[0].toNat + s.frame[1].toNat + s.frame[2].toNat + s.frame[3].toNat) % 256 = s.frame[4].toNat
             then s.err else .checksum
      chk := s.frame[4] })

/-- R135, R134: `CVT` delivers tenths of the integer and fraction bytes and the checksum byte, and falls through; nothing
else changes. -/
def Obligations.CvtProducesTheMeasurement : Prop :=
  ∀ s : State, s.upc ≠ 31 →
    ∃ t, exec .cvt s = .next t ∧
      t.hum.toNat = 10 * s.frame[0].toNat + s.frame[1].toNat ∧
      t.tmp.toNat = 10 * s.frame[2].toNat + s.frame[3].toNat ∧
      t.chk = s.frame[4] ∧
      t = upcPlusOne { s with hum := t.hum, tmp := t.tmp, chk := t.chk }

/-- R136: `DEC; VAL; CVT` ends, and its frame and Measurement are a function of the samples and the threshold alone. -/
def Obligations.DecodingIsAFunctionOfTheSamples : Prop :=
  ∀ (thr : Count) (s1 s2 : State), s1.samples = s2.samples → s1.err = .none → s2.err = .none →
    ∃ t1 t2, execAll [.dec thr, .val, .cvt] s1 = .next t1 ∧ execAll [.dec thr, .val, .cvt] s2 = .next t2 ∧
      t1.frame = t2.frame ∧ t1.measurement = t2.measurement ∧ (t1.err = .none ∨ t1.err = .checksum)

/-! ## Errors and what is written by whom -/

/-- R25, R160: a micro-operation changes `ERR` only by an abort of `DIR`, `WAIT` or `WAITM` with the error it carries (whichever
that is, log 15), or to `Checksum` by `VAL`. -/
def Obligations.ErrChangesByAbortOrValOnly : Prop :=
  ∀ (i : Instr) (s t : State), exec i s = .next t → t.err ≠ s.err →
    (t.upc = 15 ∧ ((∃ a, i = .dir a t.err) ∨ (∃ a n, i = .wait a n t.err) ∨ (∃ a n, i = .waitm a n t.err))) ∨
    (i = .val ∧ t.err = .checksum)

/-- R15, the column "written by": which micro-operations change which register; `PIN`, `PIN_W`, the ROM, the environment and the
inbox are changed by none. That `VAL` is among the writers of `CHK` is D35's word, which the column leaves out (log 11,
DEDUCED). -/
def Obligations.RegistersChangeByTheirWritersOnly : Prop :=
  ∀ (i : Instr) (s t : State), exec i s = .next t →
    (t.e ≠ s.e → (∃ n, i = .dly n) ∨ (∃ a n e, i = .wait a n e) ∨ (∃ a n e, i = .waitm a n e)) ∧
    (t.i ≠ s.i → ∃ tgt cnt, i = .loop tgt cnt) ∧
    (t.busy ≠ s.busy ∨ t.done ≠ s.done → i = .endOp) ∧
    (t.crit ≠ s.crit → i = .cent ∨ i = .cext) ∧
    (t.dir ≠ s.dir → ∃ a e, i = .dir a e) ∧
    (t.out ≠ s.out → ∃ a, i = .lvl a) ∧
    (t.samples ≠ s.samples → ∃ a n e, i = .waitm a n e) ∧
    (t.frame ≠ s.frame → ∃ thr, i = .dec thr) ∧
    (t.hum ≠ s.hum ∨ t.tmp ≠ s.tmp → i = .cvt) ∧
    (t.chk ≠ s.chk → i = .val ∨ i = .cvt) ∧
    t.pin = s.pin ∧ t.pinW = s.pinW ∧ t.rom = s.rom ∧ t.env = s.env ∧ t.inbox = s.inbox ∧ t.draws = s.draws

/-! ## The step, the host and reset -/

/-- R76, R78, R152: while `BUSY = 1` and no move of the host is due, the step runs the micro-operation that `ROM[UPC]` decodes
to, and faults on an illegal word. What the step adds, the inbox coming one step nearer, is the model's choice (log 2). -/
def Obligations.StepRunsTheDecodedMicroOperation : Prop :=
  ∀ s : State, s.busy = true → s.upcOver = false → dueMove s = Option.none →
    (∀ i, decode (romWord s.rom s.upc) = .ok i →
      step s = exec i (takeInbox s) ∧ (s.inbox = [] → step s = exec i s)) ∧
    (∀ r, decode (romWord s.rom s.upc) = .error r → step s = .fault .illegalMicroOp)

/-- R78: the illegal words are those of the rule's list, executing one is `fault(IllegalMicroOp)`, and the reachable words of
the canonical image are legal. -/
def Obligations.IllegalWordsAreRejected : Prop :=
  (∀ w : UWord, (∃ r, decode w = .error r) ↔ illegalWord w) ∧
  (∀ s : State, s.busy = true → s.upcOver = false → dueMove s = Option.none →
    illegalWord (romWord s.rom s.upc) → step s = .fault .illegalMicroOp) ∧
  (∀ a : Addr, a.toNat ≤ 16 → ¬ illegalWord (romWord (canonicalRom Config.defaults) a))

/-- R161 in the form of log 3 (the model's choice): Idle, with no move of the host to come, the machine stays as it is. -/
def Obligations.IdleStaysIdle : Prop :=
  ∀ s : State, s.busy = false → s.inbox = [] → step s = .next s

/-- R28, R8 in the form of log 16: whatever the width `PIN_W` of the instance, every step keeps it, and keeps `PIN` inside it. -/
def Obligations.StepKeepsPinInItsWidth : Prop :=
  ∀ s t : State, PinFits s → step s = .next t → PinFits t ∧ t.pinW = s.pinW

/-- `PIN` fits its width after reset, where `PIN_W` is at its default 8 (R8; log 16). -/
def Obligations.PinFitsAtReset : Prop := PinFits State.reset ∧ State.reset.pinW = 8

/-- R150, R151: START of an Idle CORE latches the pin, makes it busy at address 0, clears what the per-read clear clears and
leaves `DIR`, `OUT`, `CRIT`, `S` and `B`. The new read has oracles of its own and no `Configure` call yet (logs 1 and 13).
The port of `PIN_W` bits carries the low bits of a number that does not fit it (log 16). -/
def Obligations.StartBeginsARead : Prop :=
  ∀ (s : State) (pin : PinId) (env : Env) (rest : List Arrival),
    s.busy = false → s.inbox = ⟨0, .start pin env⟩ :: rest →
    ∃ t, step s = .next t ∧ t.cfgLog = [] ∧ (pin < 2 ^ s.pinW → t.pin = pin) ∧
      t.withoutRecords = State.withoutRecords
        { s with pin := pin % 2 ^ s.pinW, busy := true, done := false, upc := 0, upcOver := false, err := .none, i := 0, e := 0,
                 hum := 0, tmp := 0, chk := 0, t := 0, env := env, inbox := rest }

/-- R165: a START while `BUSY = 1` has no meaning: the model has no move for it. -/
def Obligations.StartWhileBusyIsRefused : Prop :=
  ∀ (s : State) (pin : PinId) (env : Env) (rest : List Arrival),
    s.busy = true → s.inbox = ⟨0, .start pin env⟩ :: rest → step s = .refused .startWhileBusy

/-- R220 in the form of log 5 (the model's choice): the model says nothing of a read that is preempted. -/
def Obligations.PreemptionOfAReadIsRefused : Prop :=
  ∀ (s : State) (rest : List Arrival), s.inbox = ⟨0, .preempt⟩ :: rest →
    (s.busy = true → step s = .refused .preempted) ∧
    (s.busy = false → step s = .next { s with inbox := rest })

/-- R39: the registers of the state after reset for which the spec states a value. -/
def Obligations.ResetLeavesTheStatedValues : Prop :=
  let s := State.reset
  s.upc = 0 ∧ s.busy = false ∧ s.done = false ∧ s.crit = false ∧ s.err = .none ∧ s.dir = .input ∧ s.out = .high ∧
    s.e = 0 ∧ s.i = 0 ∧ s.hum = 0 ∧ s.tmp = 0 ∧ s.chk = 0 ∧ s.t = 0 ∧ s.phase = .idle

/-- R39, R211: `rst`, in the middle of a read as well, gives every register its stated value and releases the line; nothing is
said of `PIN`, `S` and `B`. -/
def Obligations.RstGivesTheResetValues : Prop :=
  ∀ (s : State) (rest : List Arrival), s.inbox = ⟨0, .rst⟩ :: rest →
    ∃ t, step s = .next t ∧
      t.upc = 0 ∧ t.upcOver = false ∧ t.busy = false ∧ t.done = false ∧ t.crit = false ∧ t.err = .none ∧
      t.dir = .input ∧ t.out = .high ∧ t.e = 0 ∧ t.i = 0 ∧ t.hum = 0 ∧ t.tmp = 0 ∧ t.chk = 0 ∧ t.t = 0 ∧
      t.lineCond = .released ∧ t.rom = s.rom ∧ t.inbox = rest

/-- R22: while CORE is Idle with a finished read, a step keeps the Measurement and `DONE` until a START or `rst` is due. -/
def Obligations.MeasurementStaysUntilTheNextStart : Prop :=
  ∀ s t : State, s.busy = false → s.done = true → step s = .next t →
    (t.measurement = s.measurement ∧ t.busy = false ∧ t.done = true) ∨
    (∃ pin env, dueMove s = some (.start pin env)) ∨ dueMove s = some .rst

/-- R67: no step writes the ROM. -/
def Obligations.RomIsNeverWritten : Prop :=
  ∀ s t : State, step s = .next t → t.rom = s.rom

/-! ## Encoding (30_encoding.md) -/

/-- Decoding the word of a well-formed micro-operation gives it back, with every operand. -/
def Obligations.DecodeOfEncode : Prop :=
  ∀ i : Instr, i.wf = true → decode (encode i) = .ok i

/-- A word that decodes is the word of the micro-operation it decodes to, which is well-formed: no bit is dropped, and each
word has one meaning. -/
def Obligations.EncodeOfDecode : Prop :=
  ∀ (w : UWord) (i : Instr), decode w = .ok i → i.wf = true ∧ encode i = w

/-- R73: a word is the micro-operation of a row when its fixed bits match and the row's constraint holds, and of no row
otherwise. -/
def Obligations.DecodingFollowsMatchAndMask : Prop :=
  ∀ w : UWord,
    (∀ row ∈ tableRows, row.covers w → ∃ i, decode w = .ok i ∧ i.mnemonic = row.mnemonic) ∧
    (∀ i, decode w = .ok i → ∃ row ∈ tableRows, row.mnemonic = i.mnemonic ∧ row.covers w)

/-- R83: the two words the spec works out field by field, in both directions. -/
def Obligations.WorkedEncodings : Prop :=
  decode 0x7D0046 = .ok (.waitm .high 70 .readBitTimeout) ∧ encode (.waitm .high 70 .readBitTimeout) = 0x7D0046 ∧
  decode 0x802809 = .ok (.loop 9 40) ∧ encode (.loop 9 40) = 0x802809

/-- R82: the canonical image with the default parameters, word for word; other parameter values change only the `imm`
fields of words 3, 5, 7, 8, 9, 10 and 12. -/
def Obligations.CanonicalImage : Prop :=
  (canonicalRom Config.defaults).toList =
    [0x100000, 0x390000, 0x400000, 0x504E20, 0x480000, 0x500028, 0x310000, 0x620050, 0x6B0050, 0x640032, 0x7D0046,
     0x802809, 0x90001E, 0xA00000, 0xB00000, 0x200000, 0xC00000] ++ List.replicate 15 0 ∧
  ∀ (p : Config.Params) (a : Addr),
    romWord (canonicalRom p) a &&& 0xFF0000 = romWord (canonicalRom Config.defaults) a &&& 0xFF0000 ∧
    (a.toNat ∉ [3, 5, 7, 8, 9, 10, 12] → romWord (canonicalRom p) a = romWord (canonicalRom Config.defaults) a)

/-- R81: the four pseudo-instructions expand to words of the ROM of R82, `READ` to the whole canonical program, for every
parameter set; "each expands to canonical ROM words". -/
def Obligations.PseudoInstructionsAreRomWords : Prop :=
  ∀ p : Config.Params,
    (Pseudo.startpulse.expand p).map encode = [1, 2, 3, 4, 5, 6].map (romWord (canonicalRom p)) ∧
    (Pseudo.handshake.expand p).map encode = [7, 8].map (romWord (canonicalRom p)) ∧
    (Pseudo.bit.expand p).map encode = [9, 10].map (romWord (canonicalRom p)) ∧
    (Pseudo.read.expand p).map encode =
      [0, 1, 2, 3, 4, 5, 6, 7, 8, 9, 10, 11, 12, 13, 14, 15, 16].map (romWord (canonicalRom p))

/-! ## The canonical micro-program as a whole -/

/-- R40: every step keeps the invariant of the canonical micro-program with the default parameters. Its clause that `CHK` is 0 up
to `VAL`, and not up to `CVT`, is log 11's (D35). -/
def Obligations.StepKeepsTheCanonicalInvariant : Prop :=
  ∀ s t : State, CanonicalInv s → step s = .next t → CanonicalInv t

/-- The invariant of the canonical micro-program holds after reset. -/
def Obligations.CanonicalInvariantHoldsAtReset : Prop := CanonicalInv State.reset

/-- R166: none of the model faults is reachable from the canonical micro-program. -/
def Obligations.CanonicalProgramNeverFaults : Prop :=
  ∀ (s : State) (f : Fault), CanonicalInv s → step s ≠ .fault f

/-- R158: the phase never decreases during a read of the canonical micro-program. -/
def Obligations.PhaseNeverDecreasesDuringARead : Prop :=
  ∀ s t : State, CanonicalInv s → s.busy = true → dueMove s = Option.none → step s = .next t → t.busy = true →
    s.phase.code.toNat ≤ t.phase.code.toNat

/-- R160, R196, R197: from `EPILOGUE` exactly `CEXT` and `END` run: the read ends with the critical section left and the
Measurement as it stood. -/
def Obligations.EpilogueEndsTheRead : Prop :=
  ∀ s : State, CanonicalInv s → s.busy = true → s.upc = 15 → s.inbox = [] →
    ∃ t : State, Sys2Proof.core.run 2 s = .next t ∧ t.busy = false ∧ t.done = true ∧ t.upc = 0 ∧ t.crit = false ∧
      t.measurement = s.measurement ∧ t.t = s.t ∧ t.dir = s.dir ∧ t.out = s.out

/-- R161: every read of the canonical micro-program with the default parameters ends, in at most 134 micro-operations after its
START and at most 25001 ticks, whatever the environment answers. -/
def Obligations.CanonicalReadEnds : Prop :=
  ∀ (s : State) (pin : PinId) (env : Env),
    s.rom = canonicalRom Config.defaults → s.busy = false → s.inbox = [⟨0, .start pin env⟩] →
    ∃ (k : Nat) (t : State), k ≤ 134 ∧ Sys2Proof.core.run (1 + k) s = .next t ∧
      t.busy = false ∧ t.done = true ∧ t.upc = 0 ∧ t.t ≤ 25001

/-- R162: the Measurement at the end of a read of the canonical micro-program is the function `Read` of the environment's
answers (as data, log 1), for every well-formed parameter set. A read that ends earlier fills the 135 steps with idle steps
(log 3); the START is a step of the model (log 2). -/
def Obligations.CanonicalReadIsTheReadFunction : Prop :=
  ∀ (p : Config.Params) (s : State) (pin : PinId) (env : Env), p.wf = true →
    s.rom = canonicalRom p → s.busy = false → s.inbox = [⟨0, .start pin env⟩] →
    ∃ t : State, Sys2Proof.core.run 135 s = .next t ∧ t.busy = false ∧ t.done = true ∧
      t.measurement = specRead p env

/-- R104: a read of the canonical micro-program that begins with the pin an input ends with it an input, with the one
exception of a second `Configure` call that fails: then the line is left driven `High`. The 135 steps count the START (log 2)
and are filled with idle steps (log 3). -/
def Obligations.PinIsRestoredAtTheEnd : Prop :=
  ∀ (p : Config.Params) (s : State) (pin : PinId) (env : Env), p.wf = true →
    s.rom = canonicalRom p → s.busy = false → s.inbox = [⟨0, .start pin env⟩] → s.dir = .input →
    ∃ t : State, Sys2Proof.core.run 135 s = .next t ∧ t.busy = false ∧
      (t.dir = .output ↔ env.cfgAt 0 = .ok ∧ env.cfgAt 1 = .configError) ∧
      (t.dir = .output → t.out = .high)
end

