-- ==== Sys2Proof/Laws/Decode.lean ====
section
/-! SUPPORT. The small lemmas of the word format (30_encoding.md R70, R71): the fields of an assembled word, a word assembled
from its fields, and the codes of the enumerations both ways. -/

namespace Sys2Proof

/-! ## The codes of the enumerations -/

@[simp] theorem levelOfBit_bit (a : Level) : levelOfBit a.bit = a := by cases a <;> rfl
@[simp] theorem bit_levelOfBit (b : Bool) : (levelOfBit b).bit = b := by cases b <;> rfl
@[simp] theorem directionOfBit_bit (a : Direction) : directionOfBit a.bit = a := by cases a <;> rfl
@[simp] theorem bit_directionOfBit (b : Bool) : (directionOfBit b).bit = b := by cases b <;> rfl

/-- The code of an error that a word may carry is read back as that error. -/
theorem errOfCode_code {e : ErrorKind} (h : e.isError = true) : errOfCode e.code = some e := by
  cases e <;> first | rfl | cases h

/-- A code that stands for an error is the code of that error, which is not `None`. -/
theorem errOfCode_eq_some {c : BitVec 3} {e : ErrorKind} (h : errOfCode c = some e) :
    e.isError = true ∧ e.code = c := by
  revert c e; decide +revert

/-- An `err` field stands for an error exactly when it is neither 0 nor 7. -/
theorem errOfCode_eq_none_iff (c : BitVec 3) : errOfCode c = Option.none ↔ c = 0 ∨ c = 7 := by
  revert c; decide

/-! ## The fields of a word -/

@[simp] theorem opField_assemble (op : BitVec 4) (a : Bool) (err : BitVec 3) (imm : Count) :
    opField (assemble op a err imm) = op := by
  apply BitVec.eq_of_getLsbD_eq
  intro k hk
  simp only [opField, assemble, BitVec.getLsbD_extractLsb', BitVec.getLsbD_append]
  interval_cases k <;> simp

@[simp] theorem aField_assemble (op : BitVec 4) (a : Bool) (err : BitVec 3) (imm : Count) :
    aField (assemble op a err imm) = a := by
  simp only [aField, assemble, BitVec.getLsbD_append]
  simp

@[simp] theorem errField_assemble (op : BitVec 4) (a : Bool) (err : BitVec 3) (imm : Count) :
    errField (assemble op a err imm) = err := by
  apply BitVec.eq_of_getLsbD_eq
  intro k hk
  simp only [errField, assemble, BitVec.getLsbD_extractLsb', BitVec.getLsbD_append]
  interval_cases k <;> simp

@[simp] theorem immField_assemble (op : BitVec 4) (a : Bool) (err : BitVec 3) (imm : Count) :
    immField (assemble op a err imm) = imm := by
  apply BitVec.eq_of_getLsbD_eq
  intro k hk
  simp only [immField, assemble, BitVec.getLsbD_extractLsb', BitVec.getLsbD_append]
  simp [hk]

/-! ## The fields as numbers -/

theorem opField_toNat (w : UWord) : (opField w).toNat = w.toNat / 1048576 := by
  have := w.isLt
  simp only [opField, BitVec.extractLsb'_toNat, Nat.shiftRight_eq_div_pow]
  omega

theorem aField_eq_decide (w : UWord) : aField w = decide (w.toNat / 524288 % 2 = 1) := by
  simp [aField, BitVec.getLsbD, Nat.testBit_eq_decide_div_mod_eq]

theorem errField_toNat (w : UWord) : (errField w).toNat = w.toNat / 65536 % 8 := by
  simp only [errField, BitVec.extractLsb'_toNat, Nat.shiftRight_eq_div_pow]

theorem immField_toNat (w : UWord) : (immField w).toNat = w.toNat % 65536 := by
  simp only [immField, BitVec.extractLsb'_toNat, Nat.shiftRight_eq_div_pow]
  omega

theorem loopZeroField_toNat (w : UWord) : (loopZeroField w).toNat = w.toNat % 65536 / 32 % 8 := by
  simp only [loopZeroField, BitVec.extractLsb'_toNat, Nat.shiftRight_eq_div_pow]
  omega

/-! ## The fields of `LOOP` -/

/-- The fields of `LOOP` are cut out of `imm` (R71). -/
theorem cntField_eq (w : UWord) : cntField w = (immField w).extractLsb' 8 8 := by
  apply BitVec.eq_of_getLsbD_eq
  intro k hk
  simp only [cntField, immField, BitVec.getLsbD_extractLsb']
  have h : 8 + k < 16 := by omega
  simp [h]

theorem loopZeroField_eq (w : UWord) : loopZeroField w = (immField w).extractLsb' 5 3 := by
  apply BitVec.eq_of_getLsbD_eq
  intro k hk
  simp only [loopZeroField, immField, BitVec.getLsbD_extractLsb']
  have h : 5 + k < 16 := by omega
  simp [h]

theorem tgtField_eq (w : UWord) : tgtField w = (immField w).extractLsb' 0 5 := by
  apply BitVec.eq_of_getLsbD_eq
  intro k hk
  simp only [tgtField, immField, BitVec.getLsbD_extractLsb']
  have h : k < 16 := by omega
  simp [h]

@[simp] theorem cnt_of_loopImm (tgt : Addr) (cnt : BitVec 8) : (loopImm tgt cnt).extractLsb' 8 8 = cnt := by
  apply BitVec.eq_of_getLsbD_eq
  intro k hk
  simp only [loopImm, BitVec.getLsbD_extractLsb', BitVec.getLsbD_append]
  interval_cases k <;> simp

@[simp] theorem zero_of_loopImm (tgt : Addr) (cnt : BitVec 8) : (loopImm tgt cnt).extractLsb' 5 3 = 0 := by
  apply BitVec.eq_of_getLsbD_eq
  intro k hk
  simp only [loopImm, BitVec.getLsbD_extractLsb', BitVec.getLsbD_append]
  interval_cases k <;> simp

@[simp] theorem tgt_of_loopImm (tgt : Addr) (cnt : BitVec 8) : (loopImm tgt cnt).extractLsb' 0 5 = tgt := by
  apply BitVec.eq_of_getLsbD_eq
  intro k hk
  simp only [loopImm, BitVec.getLsbD_extractLsb', BitVec.getLsbD_append]
  interval_cases k <;> simp

/-- `imm` is put together again from the fields of `LOOP` when `imm[7:5]` is 0. -/
theorem loopImm_of_fields (imm : Count) (h : imm.extractLsb' 5 3 = 0) :
    loopImm (imm.extractLsb' 0 5) (imm.extractLsb' 8 8) = imm := by
  unfold loopImm
  rw [← h]
  apply BitVec.eq_of_getLsbD_eq
  intro k hk
  simp only [BitVec.getLsbD_extractLsb', BitVec.getLsbD_append]
  interval_cases k <;> simp

/-- A word is assembled from its own fields (R70): they cover it. -/
theorem assemble_fields (w : UWord) : assemble (opField w) (aField w) (errField w) (immField w) = w := by
  apply BitVec.eq_of_getLsbD_eq
  intro k hk
  simp only [assemble, opField, aField, errField, immField, BitVec.getLsbD_extractLsb', BitVec.getLsbD_append,
    BitVec.getLsbD_ofBool]
  interval_cases k <;> simp

/-! ## The decoder's helpers -/

theorem requireZero_eq_ok {z : Bool} {i j : Instr} : requireZero z i = .ok j ↔ z = true ∧ i = j := by
  cases z <;> simp [requireZero]

theorem withErr_eq_ok {w : UWord} {f : ErrorKind → Except Illegal Instr} {j : Instr} :
    withErr w f = .ok j ↔ ∃ e, errOfCode (errField w) = some e ∧ f e = .ok j := by
  unfold withErr
  cases errOfCode (errField w) <;> simp

theorem withTimeout_eq_ok {w : UWord} {f : Level → Count → ErrorKind → Instr} {j : Instr} :
    withTimeout w f = .ok j ↔
      ∃ e, errOfCode (errField w) = some e ∧ timeoutAllowed (immField w) = true ∧
        f (levelOfBit (aField w)) (immField w) e = j := by
  unfold withTimeout
  simp only [withErr_eq_ok]
  constructor
  · rintro ⟨e, he, h⟩
    split at h <;> simp_all
  · rintro ⟨e, he, ht, rfl⟩
    exact ⟨e, he, by simp [ht]⟩

end Sys2Proof
end

