-- ==== Sys2Proof/Laws/State.lean ====
section
/-! SUPPORT. One lemma for each field of State under each shared update (Machine/Ops.lean, Machine/Environment.lean), so that no
proof unfolds a record update. -/

namespace Sys2Proof.Machine

/-! ## `UPC <- a` -/

@[simp] theorem setUpc_e (a : Addr) (s : State) : (setUpc a s).e = s.e := rfl
@[simp] theorem setUpc_i (a : Addr) (s : State) : (setUpc a s).i = s.i := rfl
@[simp] theorem setUpc_upc (a : Addr) (s : State) : (setUpc a s).upc = a := rfl
@[simp] theorem setUpc_upcOver (a : Addr) (s : State) : (setUpc a s).upcOver = false := rfl
@[simp] theorem setUpc_busy (a : Addr) (s : State) : (setUpc a s).busy = s.busy := rfl
@[simp] theorem setUpc_done (a : Addr) (s : State) : (setUpc a s).done = s.done := rfl
@[simp] theorem setUpc_crit (a : Addr) (s : State) : (setUpc a s).crit = s.crit := rfl
@[simp] theorem setUpc_err (a : Addr) (s : State) : (setUpc a s).err = s.err := rfl
@[simp] theorem setUpc_dir (a : Addr) (s : State) : (setUpc a s).dir = s.dir := rfl
@[simp] theorem setUpc_out (a : Addr) (s : State) : (setUpc a s).out = s.out := rfl
@[simp] theorem setUpc_pin (a : Addr) (s : State) : (setUpc a s).pin = s.pin := rfl
@[simp] theorem setUpc_samples (a : Addr) (s : State) : (setUpc a s).samples = s.samples := rfl
@[simp] theorem setUpc_frame (a : Addr) (s : State) : (setUpc a s).frame = s.frame := rfl
@[simp] theorem setUpc_hum (a : Addr) (s : State) : (setUpc a s).hum = s.hum := rfl
@[simp] theorem setUpc_tmp (a : Addr) (s : State) : (setUpc a s).tmp = s.tmp := rfl
@[simp] theorem setUpc_chk (a : Addr) (s : State) : (setUpc a s).chk = s.chk := rfl
@[simp] theorem setUpc_t (a : Addr) (s : State) : (setUpc a s).t = s.t := rfl
@[simp] theorem setUpc_rom (a : Addr) (s : State) : (setUpc a s).rom = s.rom := rfl
@[simp] theorem setUpc_pinW (a : Addr) (s : State) : (setUpc a s).pinW = s.pinW := rfl
@[simp] theorem setUpc_env (a : Addr) (s : State) : (setUpc a s).env = s.env := rfl
@[simp] theorem setUpc_cfgLog (a : Addr) (s : State) : (setUpc a s).cfgLog = s.cfgLog := rfl
@[simp] theorem setUpc_lineBase (a : Addr) (s : State) : (setUpc a s).lineBase = s.lineBase := rfl
@[simp] theorem setUpc_lineLog (a : Addr) (s : State) : (setUpc a s).lineLog = s.lineLog := rfl
@[simp] theorem setUpc_inbox (a : Addr) (s : State) : (setUpc a s).inbox = s.inbox := rfl
@[simp] theorem setUpc_draws (a : Addr) (s : State) : (setUpc a s).draws = s.draws := rfl

/-! ## `UPC <- UPC + 1` -/

@[simp] theorem advance_e (s : State) : (advance s).e = s.e := rfl
@[simp] theorem advance_i (s : State) : (advance s).i = s.i := rfl
@[simp] theorem advance_upc (s : State) : (advance s).upc = (if s.upc = 31 then 31 else s.upc + 1) := rfl
@[simp] theorem advance_upcOver (s : State) : (advance s).upcOver = (s.upc == 31) := rfl
@[simp] theorem advance_busy (s : State) : (advance s).busy = s.busy := rfl
@[simp] theorem advance_done (s : State) : (advance s).done = s.done := rfl
@[simp] theorem advance_crit (s : State) : (advance s).crit = s.crit := rfl
@[simp] theorem advance_err (s : State) : (advance s).err = s.err := rfl
@[simp] theorem advance_dir (s : State) : (advance s).dir = s.dir := rfl
@[simp] theorem advance_out (s : State) : (advance s).out = s.out := rfl
@[simp] theorem advance_pin (s : State) : (advance s).pin = s.pin := rfl
@[simp] theorem advance_samples (s : State) : (advance s).samples = s.samples := rfl
@[simp] theorem advance_frame (s : State) : (advance s).frame = s.frame := rfl
@[simp] theorem advance_hum (s : State) : (advance s).hum = s.hum := rfl
@[simp] theorem advance_tmp (s : State) : (advance s).tmp = s.tmp := rfl
@[simp] theorem advance_chk (s : State) : (advance s).chk = s.chk := rfl
@[simp] theorem advance_t (s : State) : (advance s).t = s.t := rfl
@[simp] theorem advance_rom (s : State) : (advance s).rom = s.rom := rfl
@[simp] theorem advance_pinW (s : State) : (advance s).pinW = s.pinW := rfl
@[simp] theorem advance_env (s : State) : (advance s).env = s.env := rfl
@[simp] theorem advance_cfgLog (s : State) : (advance s).cfgLog = s.cfgLog := rfl
@[simp] theorem advance_lineBase (s : State) : (advance s).lineBase = s.lineBase := rfl
@[simp] theorem advance_lineLog (s : State) : (advance s).lineLog = s.lineLog := rfl
@[simp] theorem advance_inbox (s : State) : (advance s).inbox = s.inbox := rfl
@[simp] theorem advance_draws (s : State) : (advance s).draws = s.draws := rfl

/-! ## `abort` -/

@[simp] theorem abort_e (x : ErrorKind) (s : State) : (abort x s).e = s.e := rfl
@[simp] theorem abort_i (x : ErrorKind) (s : State) : (abort x s).i = s.i := rfl
@[simp] theorem abort_upc (x : ErrorKind) (s : State) : (abort x s).upc = Config.epilogue := rfl
@[simp] theorem abort_upcOver (x : ErrorKind) (s : State) : (abort x s).upcOver = false := rfl
@[simp] theorem abort_busy (x : ErrorKind) (s : State) : (abort x s).busy = s.busy := rfl
@[simp] theorem abort_done (x : ErrorKind) (s : State) : (abort x s).done = s.done := rfl
@[simp] theorem abort_crit (x : ErrorKind) (s : State) : (abort x s).crit = s.crit := rfl
@[simp] theorem abort_err (x : ErrorKind) (s : State) : (abort x s).err = x := rfl
@[simp] theorem abort_dir (x : ErrorKind) (s : State) : (abort x s).dir = s.dir := rfl
@[simp] theorem abort_out (x : ErrorKind) (s : State) : (abort x s).out = s.out := rfl
@[simp] theorem abort_pin (x : ErrorKind) (s : State) : (abort x s).pin = s.pin := rfl
@[simp] theorem abort_samples (x : ErrorKind) (s : State) : (abort x s).samples = s.samples := rfl
@[simp] theorem abort_frame (x : ErrorKind) (s : State) : (abort x s).frame = s.frame := rfl
@[simp] theorem abort_hum (x : ErrorKind) (s : State) : (abort x s).hum = s.hum := rfl
@[simp] theorem abort_tmp (x : ErrorKind) (s : State) : (abort x s).tmp = s.tmp := rfl
@[simp] theorem abort_chk (x : ErrorKind) (s : State) : (abort x s).chk = s.chk := rfl
@[simp] theorem abort_t (x : ErrorKind) (s : State) : (abort x s).t = s.t := rfl
@[simp] theorem abort_rom (x : ErrorKind) (s : State) : (abort x s).rom = s.rom := rfl
@[simp] theorem abort_pinW (x : ErrorKind) (s : State) : (abort x s).pinW = s.pinW := rfl
@[simp] theorem abort_env (x : ErrorKind) (s : State) : (abort x s).env = s.env := rfl
@[simp] theorem abort_cfgLog (x : ErrorKind) (s : State) : (abort x s).cfgLog = s.cfgLog := rfl
@[simp] theorem abort_lineBase (x : ErrorKind) (s : State) : (abort x s).lineBase = s.lineBase := rfl
@[simp] theorem abort_lineLog (x : ErrorKind) (s : State) : (abort x s).lineLog = s.lineLog := rfl
@[simp] theorem abort_inbox (x : ErrorKind) (s : State) : (abort x s).inbox = s.inbox := rfl
@[simp] theorem abort_draws (x : ErrorKind) (s : State) : (abort x s).draws = s.draws := rfl

/-! ## the return of `END` -/

@[simp] theorem finish_e (s : State) : (finish s).e = s.e := rfl
@[simp] theorem finish_i (s : State) : (finish s).i = s.i := rfl
@[simp] theorem finish_upc (s : State) : (finish s).upc = 0 := rfl
@[simp] theorem finish_upcOver (s : State) : (finish s).upcOver = false := rfl
@[simp] theorem finish_busy (s : State) : (finish s).busy = false := rfl
@[simp] theorem finish_done (s : State) : (finish s).done = true := rfl
@[simp] theorem finish_crit (s : State) : (finish s).crit = s.crit := rfl
@[simp] theorem finish_err (s : State) : (finish s).err = s.err := rfl
@[simp] theorem finish_dir (s : State) : (finish s).dir = s.dir := rfl
@[simp] theorem finish_out (s : State) : (finish s).out = s.out := rfl
@[simp] theorem finish_pin (s : State) : (finish s).pin = s.pin := rfl
@[simp] theorem finish_samples (s : State) : (finish s).samples = s.samples := rfl
@[simp] theorem finish_frame (s : State) : (finish s).frame = s.frame := rfl
@[simp] theorem finish_hum (s : State) : (finish s).hum = s.hum := rfl
@[simp] theorem finish_tmp (s : State) : (finish s).tmp = s.tmp := rfl
@[simp] theorem finish_chk (s : State) : (finish s).chk = s.chk := rfl
@[simp] theorem finish_t (s : State) : (finish s).t = s.t := rfl
@[simp] theorem finish_rom (s : State) : (finish s).rom = s.rom := rfl
@[simp] theorem finish_pinW (s : State) : (finish s).pinW = s.pinW := rfl
@[simp] theorem finish_env (s : State) : (finish s).env = s.env := rfl
@[simp] theorem finish_cfgLog (s : State) : (finish s).cfgLog = s.cfgLog := rfl
@[simp] theorem finish_lineBase (s : State) : (finish s).lineBase = s.lineBase := rfl
@[simp] theorem finish_lineLog (s : State) : (finish s).lineLog = s.lineLog := rfl
@[simp] theorem finish_inbox (s : State) : (finish s).inbox = s.inbox := rfl
@[simp] theorem finish_draws (s : State) : (finish s).draws = s.draws := rfl

/-! ## `CritEnter` -/

@[simp] theorem critEnter_e (s : State) : (critEnter s).e = s.e := rfl
@[simp] theorem critEnter_i (s : State) : (critEnter s).i = s.i := rfl
@[simp] theorem critEnter_upc (s : State) : (critEnter s).upc = s.upc := rfl
@[simp] theorem critEnter_upcOver (s : State) : (critEnter s).upcOver = s.upcOver := rfl
@[simp] theorem critEnter_busy (s : State) : (critEnter s).busy = s.busy := rfl
@[simp] theorem critEnter_done (s : State) : (critEnter s).done = s.done := rfl
@[simp] theorem critEnter_crit (s : State) : (critEnter s).crit = true := rfl
@[simp] theorem critEnter_err (s : State) : (critEnter s).err = s.err := rfl
@[simp] theorem critEnter_dir (s : State) : (critEnter s).dir = s.dir := rfl
@[simp] theorem critEnter_out (s : State) : (critEnter s).out = s.out := rfl
@[simp] theorem critEnter_pin (s : State) : (critEnter s).pin = s.pin := rfl
@[simp] theorem critEnter_samples (s : State) : (critEnter s).samples = s.samples := rfl
@[simp] theorem critEnter_frame (s : State) : (critEnter s).frame = s.frame := rfl
@[simp] theorem critEnter_hum (s : State) : (critEnter s).hum = s.hum := rfl
@[simp] theorem critEnter_tmp (s : State) : (critEnter s).tmp = s.tmp := rfl
@[simp] theorem critEnter_chk (s : State) : (critEnter s).chk = s.chk := rfl
@[simp] theorem critEnter_t (s : State) : (critEnter s).t = s.t := rfl
@[simp] theorem critEnter_rom (s : State) : (critEnter s).rom = s.rom := rfl
@[simp] theorem critEnter_pinW (s : State) : (critEnter s).pinW = s.pinW := rfl
@[simp] theorem critEnter_env (s : State) : (critEnter s).env = s.env := rfl
@[simp] theorem critEnter_cfgLog (s : State) : (critEnter s).cfgLog = s.cfgLog := rfl
@[simp] theorem critEnter_lineBase (s : State) : (critEnter s).lineBase = s.lineBase := rfl
@[simp] theorem critEnter_lineLog (s : State) : (critEnter s).lineLog = s.lineLog := rfl
@[simp] theorem critEnter_inbox (s : State) : (critEnter s).inbox = s.inbox := rfl
@[simp] theorem critEnter_draws (s : State) : (critEnter s).draws = s.draws := rfl

/-! ## `CritExit` -/

@[simp] theorem critExit_e (s : State) : (critExit s).e = s.e := rfl
@[simp] theorem critExit_i (s : State) : (critExit s).i = s.i := rfl
@[simp] theorem critExit_upc (s : State) : (critExit s).upc = s.upc := rfl
@[simp] theorem critExit_upcOver (s : State) : (critExit s).upcOver = s.upcOver := rfl
@[simp] theorem critExit_busy (s : State) : (critExit s).busy = s.busy := rfl
@[simp] theorem critExit_done (s : State) : (critExit s).done = s.done := rfl
@[simp] theorem critExit_crit (s : State) : (critExit s).crit = false := rfl
@[simp] theorem critExit_err (s : State) : (critExit s).err = s.err := rfl
@[simp] theorem critExit_dir (s : State) : (critExit s).dir = s.dir := rfl
@[simp] theorem critExit_out (s : State) : (critExit s).out = s.out := rfl
@[simp] theorem critExit_pin (s : State) : (critExit s).pin = s.pin := rfl
@[simp] theorem critExit_samples (s : State) : (critExit s).samples = s.samples := rfl
@[simp] theorem critExit_frame (s : State) : (critExit s).frame = s.frame := rfl
@[simp] theorem critExit_hum (s : State) : (critExit s).hum = s.hum := rfl
@[simp] theorem critExit_tmp (s : State) : (critExit s).tmp = s.tmp := rfl
@[simp] theorem critExit_chk (s : State) : (critExit s).chk = s.chk := rfl
@[simp] theorem critExit_t (s : State) : (critExit s).t = s.t := rfl
@[simp] theorem critExit_rom (s : State) : (critExit s).rom = s.rom := rfl
@[simp] theorem critExit_pinW (s : State) : (critExit s).pinW = s.pinW := rfl
@[simp] theorem critExit_env (s : State) : (critExit s).env = s.env := rfl
@[simp] theorem critExit_cfgLog (s : State) : (critExit s).cfgLog = s.cfgLog := rfl
@[simp] theorem critExit_lineBase (s : State) : (critExit s).lineBase = s.lineBase := rfl
@[simp] theorem critExit_lineLog (s : State) : (critExit s).lineLog = s.lineLog := rfl
@[simp] theorem critExit_inbox (s : State) : (critExit s).inbox = s.inbox := rfl
@[simp] theorem critExit_draws (s : State) : (critExit s).draws = s.draws := rfl

/-! ## the record of the line -/

@[simp] theorem noteLine_e (s : State) : (noteLine s).e = s.e := rfl
@[simp] theorem noteLine_i (s : State) : (noteLine s).i = s.i := rfl
@[simp] theorem noteLine_upc (s : State) : (noteLine s).upc = s.upc := rfl
@[simp] theorem noteLine_upcOver (s : State) : (noteLine s).upcOver = s.upcOver := rfl
@[simp] theorem noteLine_busy (s : State) : (noteLine s).busy = s.busy := rfl
@[simp] theorem noteLine_done (s : State) : (noteLine s).done = s.done := rfl
@[simp] theorem noteLine_crit (s : State) : (noteLine s).crit = s.crit := rfl
@[simp] theorem noteLine_err (s : State) : (noteLine s).err = s.err := rfl
@[simp] theorem noteLine_dir (s : State) : (noteLine s).dir = s.dir := rfl
@[simp] theorem noteLine_out (s : State) : (noteLine s).out = s.out := rfl
@[simp] theorem noteLine_pin (s : State) : (noteLine s).pin = s.pin := rfl
@[simp] theorem noteLine_samples (s : State) : (noteLine s).samples = s.samples := rfl
@[simp] theorem noteLine_frame (s : State) : (noteLine s).frame = s.frame := rfl
@[simp] theorem noteLine_hum (s : State) : (noteLine s).hum = s.hum := rfl
@[simp] theorem noteLine_tmp (s : State) : (noteLine s).tmp = s.tmp := rfl
@[simp] theorem noteLine_chk (s : State) : (noteLine s).chk = s.chk := rfl
@[simp] theorem noteLine_t (s : State) : (noteLine s).t = s.t := rfl
@[simp] theorem noteLine_rom (s : State) : (noteLine s).rom = s.rom := rfl
@[simp] theorem noteLine_pinW (s : State) : (noteLine s).pinW = s.pinW := rfl
@[simp] theorem noteLine_env (s : State) : (noteLine s).env = s.env := rfl
@[simp] theorem noteLine_cfgLog (s : State) : (noteLine s).cfgLog = s.cfgLog := rfl
@[simp] theorem noteLine_lineBase (s : State) : (noteLine s).lineBase = s.lineBase := rfl
@[simp] theorem noteLine_lineLog (s : State) : (noteLine s).lineLog = recordChange s.lineBase s.t s.lineCond s.lineLog := rfl
@[simp] theorem noteLine_inbox (s : State) : (noteLine s).inbox = s.inbox := rfl
@[simp] theorem noteLine_draws (s : State) : (noteLine s).draws = s.draws := rfl

/-! ## `DelayUs` -/

@[simp] theorem delayUs_e (n : Nat) (s : State) : (delayUs n s).e = s.e := rfl
@[simp] theorem delayUs_i (n : Nat) (s : State) : (delayUs n s).i = s.i := rfl
@[simp] theorem delayUs_upc (n : Nat) (s : State) : (delayUs n s).upc = s.upc := rfl
@[simp] theorem delayUs_upcOver (n : Nat) (s : State) : (delayUs n s).upcOver = s.upcOver := rfl
@[simp] theorem delayUs_busy (n : Nat) (s : State) : (delayUs n s).busy = s.busy := rfl
@[simp] theorem delayUs_done (n : Nat) (s : State) : (delayUs n s).done = s.done := rfl
@[simp] theorem delayUs_crit (n : Nat) (s : State) : (delayUs n s).crit = s.crit := rfl
@[simp] theorem delayUs_err (n : Nat) (s : State) : (delayUs n s).err = s.err := rfl
@[simp] theorem delayUs_dir (n : Nat) (s : State) : (delayUs n s).dir = s.dir := rfl
@[simp] theorem delayUs_out (n : Nat) (s : State) : (delayUs n s).out = s.out := rfl
@[simp] theorem delayUs_pin (n : Nat) (s : State) : (delayUs n s).pin = s.pin := rfl
@[simp] theorem delayUs_samples (n : Nat) (s : State) : (delayUs n s).samples = s.samples := rfl
@[simp] theorem delayUs_frame (n : Nat) (s : State) : (delayUs n s).frame = s.frame := rfl
@[simp] theorem delayUs_hum (n : Nat) (s : State) : (delayUs n s).hum = s.hum := rfl
@[simp] theorem delayUs_tmp (n : Nat) (s : State) : (delayUs n s).tmp = s.tmp := rfl
@[simp] theorem delayUs_chk (n : Nat) (s : State) : (delayUs n s).chk = s.chk := rfl
@[simp] theorem delayUs_t (n : Nat) (s : State) : (delayUs n s).t = s.t + n := rfl
@[simp] theorem delayUs_rom (n : Nat) (s : State) : (delayUs n s).rom = s.rom := rfl
@[simp] theorem delayUs_pinW (n : Nat) (s : State) : (delayUs n s).pinW = s.pinW := rfl
@[simp] theorem delayUs_env (n : Nat) (s : State) : (delayUs n s).env = s.env := rfl
@[simp] theorem delayUs_cfgLog (n : Nat) (s : State) : (delayUs n s).cfgLog = s.cfgLog := rfl
@[simp] theorem delayUs_lineBase (n : Nat) (s : State) : (delayUs n s).lineBase = s.lineBase := rfl
@[simp] theorem delayUs_lineLog (n : Nat) (s : State) : (delayUs n s).lineLog = s.lineLog := rfl
@[simp] theorem delayUs_inbox (n : Nat) (s : State) : (delayUs n s).inbox = s.inbox := rfl
@[simp] theorem delayUs_draws (n : Nat) (s : State) : (delayUs n s).draws = s.draws := rfl

/-! ## `E` and `T` after a wait -/

@[simp] theorem elapse_e (n : Nat) (s : State) : (elapse n s).e = BitVec.ofNat 16 n := rfl
@[simp] theorem elapse_i (n : Nat) (s : State) : (elapse n s).i = s.i := rfl
@[simp] theorem elapse_upc (n : Nat) (s : State) : (elapse n s).upc = s.upc := rfl
@[simp] theorem elapse_upcOver (n : Nat) (s : State) : (elapse n s).upcOver = s.upcOver := rfl
@[simp] theorem elapse_busy (n : Nat) (s : State) : (elapse n s).busy = s.busy := rfl
@[simp] theorem elapse_done (n : Nat) (s : State) : (elapse n s).done = s.done := rfl
@[simp] theorem elapse_crit (n : Nat) (s : State) : (elapse n s).crit = s.crit := rfl
@[simp] theorem elapse_err (n : Nat) (s : State) : (elapse n s).err = s.err := rfl
@[simp] theorem elapse_dir (n : Nat) (s : State) : (elapse n s).dir = s.dir := rfl
@[simp] theorem elapse_out (n : Nat) (s : State) : (elapse n s).out = s.out := rfl
@[simp] theorem elapse_pin (n : Nat) (s : State) : (elapse n s).pin = s.pin := rfl
@[simp] theorem elapse_samples (n : Nat) (s : State) : (elapse n s).samples = s.samples := rfl
@[simp] theorem elapse_frame (n : Nat) (s : State) : (elapse n s).frame = s.frame := rfl
@[simp] theorem elapse_hum (n : Nat) (s : State) : (elapse n s).hum = s.hum := rfl
@[simp] theorem elapse_tmp (n : Nat) (s : State) : (elapse n s).tmp = s.tmp := rfl
@[simp] theorem elapse_chk (n : Nat) (s : State) : (elapse n s).chk = s.chk := rfl
@[simp] theorem elapse_t (n : Nat) (s : State) : (elapse n s).t = s.t + n := rfl
@[simp] theorem elapse_rom (n : Nat) (s : State) : (elapse n s).rom = s.rom := rfl
@[simp] theorem elapse_pinW (n : Nat) (s : State) : (elapse n s).pinW = s.pinW := rfl
@[simp] theorem elapse_env (n : Nat) (s : State) : (elapse n s).env = s.env := rfl
@[simp] theorem elapse_cfgLog (n : Nat) (s : State) : (elapse n s).cfgLog = s.cfgLog := rfl
@[simp] theorem elapse_lineBase (n : Nat) (s : State) : (elapse n s).lineBase = s.lineBase := rfl
@[simp] theorem elapse_lineLog (n : Nat) (s : State) : (elapse n s).lineLog = s.lineLog := rfl
@[simp] theorem elapse_inbox (n : Nat) (s : State) : (elapse n s).inbox = s.inbox := rfl
@[simp] theorem elapse_draws (n : Nat) (s : State) : (elapse n s).draws = s.draws := rfl

/-! ## `B <- bytes` -/

@[simp] theorem setFrame_e (b : Vector Byte Config.nBytes) (s : State) : (setFrame b s).e = s.e := rfl
@[simp] theorem setFrame_i (b : Vector Byte Config.nBytes) (s : State) : (setFrame b s).i = s.i := rfl
@[simp] theorem setFrame_upc (b : Vector Byte Config.nBytes) (s : State) : (setFrame b s).upc = s.upc := rfl
@[simp] theorem setFrame_upcOver (b : Vector Byte Config.nBytes) (s : State) : (setFrame b s).upcOver = s.upcOver := rfl
@[simp] theorem setFrame_busy (b : Vector Byte Config.nBytes) (s : State) : (setFrame b s).busy = s.busy := rfl
@[simp] theorem setFrame_done (b : Vector Byte Config.nBytes) (s : State) : (setFrame b s).done = s.done := rfl
@[simp] theorem setFrame_crit (b : Vector Byte Config.nBytes) (s : State) : (setFrame b s).crit = s.crit := rfl
@[simp] theorem setFrame_err (b : Vector Byte Config.nBytes) (s : State) : (setFrame b s).err = s.err := rfl
@[simp] theorem setFrame_dir (b : Vector Byte Config.nBytes) (s : State) : (setFrame b s).dir = s.dir := rfl
@[simp] theorem setFrame_out (b : Vector Byte Config.nBytes) (s : State) : (setFrame b s).out = s.out := rfl
@[simp] theorem setFrame_pin (b : Vector Byte Config.nBytes) (s : State) : (setFrame b s).pin = s.pin := rfl
@[simp] theorem setFrame_samples (b : Vector Byte Config.nBytes) (s : State) : (setFrame b s).samples = s.samples := rfl
@[simp] theorem setFrame_frame (b : Vector Byte Config.nBytes) (s : State) : (setFrame b s).frame = b := rfl
@[simp] theorem setFrame_hum (b : Vector Byte Config.nBytes) (s : State) : (setFrame b s).hum = s.hum := rfl
@[simp] theorem setFrame_tmp (b : Vector Byte Config.nBytes) (s : State) : (setFrame b s).tmp = s.tmp := rfl
@[simp] theorem setFrame_chk (b : Vector Byte Config.nBytes) (s : State) : (setFrame b s).chk = s.chk := rfl
@[simp] theorem setFrame_t (b : Vector Byte Config.nBytes) (s : State) : (setFrame b s).t = s.t := rfl
@[simp] theorem setFrame_rom (b : Vector Byte Config.nBytes) (s : State) : (setFrame b s).rom = s.rom := rfl
@[simp] theorem setFrame_pinW (b : Vector Byte Config.nBytes) (s : State) : (setFrame b s).pinW = s.pinW := rfl
@[simp] theorem setFrame_env (b : Vector Byte Config.nBytes) (s : State) : (setFrame b s).env = s.env := rfl
@[simp] theorem setFrame_cfgLog (b : Vector Byte Config.nBytes) (s : State) : (setFrame b s).cfgLog = s.cfgLog := rfl
@[simp] theorem setFrame_lineBase (b : Vector Byte Config.nBytes) (s : State) : (setFrame b s).lineBase = s.lineBase := rfl
@[simp] theorem setFrame_lineLog (b : Vector Byte Config.nBytes) (s : State) : (setFrame b s).lineLog = s.lineLog := rfl
@[simp] theorem setFrame_inbox (b : Vector Byte Config.nBytes) (s : State) : (setFrame b s).inbox = s.inbox := rfl
@[simp] theorem setFrame_draws (b : Vector Byte Config.nBytes) (s : State) : (setFrame b s).draws = s.draws := rfl

/-! ## the results of `CVT` -/

@[simp] theorem setMeasurement_e (s : State) : (setMeasurement s).e = s.e := rfl
@[simp] theorem setMeasurement_i (s : State) : (setMeasurement s).i = s.i := rfl
@[simp] theorem setMeasurement_upc (s : State) : (setMeasurement s).upc = s.upc := rfl
@[simp] theorem setMeasurement_upcOver (s : State) : (setMeasurement s).upcOver = s.upcOver := rfl
@[simp] theorem setMeasurement_busy (s : State) : (setMeasurement s).busy = s.busy := rfl
@[simp] theorem setMeasurement_done (s : State) : (setMeasurement s).done = s.done := rfl
@[simp] theorem setMeasurement_crit (s : State) : (setMeasurement s).crit = s.crit := rfl
@[simp] theorem setMeasurement_err (s : State) : (setMeasurement s).err = s.err := rfl
@[simp] theorem setMeasurement_dir (s : State) : (setMeasurement s).dir = s.dir := rfl
@[simp] theorem setMeasurement_out (s : State) : (setMeasurement s).out = s.out := rfl
@[simp] theorem setMeasurement_pin (s : State) : (setMeasurement s).pin = s.pin := rfl
@[simp] theorem setMeasurement_samples (s : State) : (setMeasurement s).samples = s.samples := rfl
@[simp] theorem setMeasurement_frame (s : State) : (setMeasurement s).frame = s.frame := rfl
@[simp] theorem setMeasurement_hum (s : State) : (setMeasurement s).hum = convert s.frame[0] s.frame[1] := rfl
@[simp] theorem setMeasurement_tmp (s : State) : (setMeasurement s).tmp = convert s.frame[2] s.frame[3] := rfl
@[simp] theorem setMeasurement_chk (s : State) : (setMeasurement s).chk = s.frame[4] := rfl
@[simp] theorem setMeasurement_t (s : State) : (setMeasurement s).t = s.t := rfl
@[simp] theorem setMeasurement_rom (s : State) : (setMeasurement s).rom = s.rom := rfl
@[simp] theorem setMeasurement_pinW (s : State) : (setMeasurement s).pinW = s.pinW := rfl
@[simp] theorem setMeasurement_env (s : State) : (setMeasurement s).env = s.env := rfl
@[simp] theorem setMeasurement_cfgLog (s : State) : (setMeasurement s).cfgLog = s.cfgLog := rfl
@[simp] theorem setMeasurement_lineBase (s : State) : (setMeasurement s).lineBase = s.lineBase := rfl
@[simp] theorem setMeasurement_lineLog (s : State) : (setMeasurement s).lineLog = s.lineLog := rfl
@[simp] theorem setMeasurement_inbox (s : State) : (setMeasurement s).inbox = s.inbox := rfl
@[simp] theorem setMeasurement_draws (s : State) : (setMeasurement s).draws = s.draws := rfl

/-! ## `CHK <- B[4]` -/

@[simp] theorem keepChecksum_e (s : State) : (keepChecksum s).e = s.e := rfl
@[simp] theorem keepChecksum_i (s : State) : (keepChecksum s).i = s.i := rfl
@[simp] theorem keepChecksum_upc (s : State) : (keepChecksum s).upc = s.upc := rfl
@[simp] theorem keepChecksum_upcOver (s : State) : (keepChecksum s).upcOver = s.upcOver := rfl
@[simp] theorem keepChecksum_busy (s : State) : (keepChecksum s).busy = s.busy := rfl
@[simp] theorem keepChecksum_done (s : State) : (keepChecksum s).done = s.done := rfl
@[simp] theorem keepChecksum_crit (s : State) : (keepChecksum s).crit = s.crit := rfl
@[simp] theorem keepChecksum_err (s : State) : (keepChecksum s).err = s.err := rfl
@[simp] theorem keepChecksum_dir (s : State) : (keepChecksum s).dir = s.dir := rfl
@[simp] theorem keepChecksum_out (s : State) : (keepChecksum s).out = s.out := rfl
@[simp] theorem keepChecksum_pin (s : State) : (keepChecksum s).pin = s.pin := rfl
@[simp] theorem keepChecksum_samples (s : State) : (keepChecksum s).samples = s.samples := rfl
@[simp] theorem keepChecksum_frame (s : State) : (keepChecksum s).frame = s.frame := rfl
@[simp] theorem keepChecksum_hum (s : State) : (keepChecksum s).hum = s.hum := rfl
@[simp] theorem keepChecksum_tmp (s : State) : (keepChecksum s).tmp = s.tmp := rfl
@[simp] theorem keepChecksum_chk (s : State) : (keepChecksum s).chk = s.frame[4] := rfl
@[simp] theorem keepChecksum_t (s : State) : (keepChecksum s).t = s.t := rfl
@[simp] theorem keepChecksum_rom (s : State) : (keepChecksum s).rom = s.rom := rfl
@[simp] theorem keepChecksum_pinW (s : State) : (keepChecksum s).pinW = s.pinW := rfl
@[simp] theorem keepChecksum_env (s : State) : (keepChecksum s).env = s.env := rfl
@[simp] theorem keepChecksum_cfgLog (s : State) : (keepChecksum s).cfgLog = s.cfgLog := rfl
@[simp] theorem keepChecksum_lineBase (s : State) : (keepChecksum s).lineBase = s.lineBase := rfl
@[simp] theorem keepChecksum_lineLog (s : State) : (keepChecksum s).lineLog = s.lineLog := rfl
@[simp] theorem keepChecksum_inbox (s : State) : (keepChecksum s).inbox = s.inbox := rfl
@[simp] theorem keepChecksum_draws (s : State) : (keepChecksum s).draws = s.draws := rfl

/-! ## the inbox one step nearer -/

@[simp] theorem takeInbox_e (s : State) : (takeInbox s).e = s.e := rfl
@[simp] theorem takeInbox_i (s : State) : (takeInbox s).i = s.i := rfl
@[simp] theorem takeInbox_upc (s : State) : (takeInbox s).upc = s.upc := rfl
@[simp] theorem takeInbox_upcOver (s : State) : (takeInbox s).upcOver = s.upcOver := rfl
@[simp] theorem takeInbox_busy (s : State) : (takeInbox s).busy = s.busy := rfl
@[simp] theorem takeInbox_done (s : State) : (takeInbox s).done = s.done := rfl
@[simp] theorem takeInbox_crit (s : State) : (takeInbox s).crit = s.crit := rfl
@[simp] theorem takeInbox_err (s : State) : (takeInbox s).err = s.err := rfl
@[simp] theorem takeInbox_dir (s : State) : (takeInbox s).dir = s.dir := rfl
@[simp] theorem takeInbox_out (s : State) : (takeInbox s).out = s.out := rfl
@[simp] theorem takeInbox_pin (s : State) : (takeInbox s).pin = s.pin := rfl
@[simp] theorem takeInbox_samples (s : State) : (takeInbox s).samples = s.samples := rfl
@[simp] theorem takeInbox_frame (s : State) : (takeInbox s).frame = s.frame := rfl
@[simp] theorem takeInbox_hum (s : State) : (takeInbox s).hum = s.hum := rfl
@[simp] theorem takeInbox_tmp (s : State) : (takeInbox s).tmp = s.tmp := rfl
@[simp] theorem takeInbox_chk (s : State) : (takeInbox s).chk = s.chk := rfl
@[simp] theorem takeInbox_t (s : State) : (takeInbox s).t = s.t := rfl
@[simp] theorem takeInbox_rom (s : State) : (takeInbox s).rom = s.rom := rfl
@[simp] theorem takeInbox_pinW (s : State) : (takeInbox s).pinW = s.pinW := rfl
@[simp] theorem takeInbox_env (s : State) : (takeInbox s).env = s.env := rfl
@[simp] theorem takeInbox_cfgLog (s : State) : (takeInbox s).cfgLog = s.cfgLog := rfl
@[simp] theorem takeInbox_lineBase (s : State) : (takeInbox s).lineBase = s.lineBase := rfl
@[simp] theorem takeInbox_lineLog (s : State) : (takeInbox s).lineLog = s.lineLog := rfl
@[simp] theorem takeInbox_inbox (s : State) : (takeInbox s).inbox = inboxAfter s.inbox := rfl
@[simp] theorem takeInbox_draws (s : State) : (takeInbox s).draws = s.draws := rfl

/-! ## START -/

@[simp] theorem startRead_e (p : PinId) (v : Env) (s : State) : (startRead p v s).e = 0 := rfl
@[simp] theorem startRead_i (p : PinId) (v : Env) (s : State) : (startRead p v s).i = 0 := rfl
@[simp] theorem startRead_upc (p : PinId) (v : Env) (s : State) : (startRead p v s).upc = 0 := rfl
@[simp] theorem startRead_upcOver (p : PinId) (v : Env) (s : State) : (startRead p v s).upcOver = false := rfl
@[simp] theorem startRead_busy (p : PinId) (v : Env) (s : State) : (startRead p v s).busy = true := rfl
@[simp] theorem startRead_done (p : PinId) (v : Env) (s : State) : (startRead p v s).done = false := rfl
@[simp] theorem startRead_crit (p : PinId) (v : Env) (s : State) : (startRead p v s).crit = s.crit := rfl
@[simp] theorem startRead_err (p : PinId) (v : Env) (s : State) : (startRead p v s).err = .none := rfl
@[simp] theorem startRead_dir (p : PinId) (v : Env) (s : State) : (startRead p v s).dir = s.dir := rfl
@[simp] theorem startRead_out (p : PinId) (v : Env) (s : State) : (startRead p v s).out = s.out := rfl
@[simp] theorem startRead_pin (p : PinId) (v : Env) (s : State) : (startRead p v s).pin = pinOnPort s.pinW p := rfl
@[simp] theorem startRead_samples (p : PinId) (v : Env) (s : State) : (startRead p v s).samples = s.samples := rfl
@[simp] theorem startRead_frame (p : PinId) (v : Env) (s : State) : (startRead p v s).frame = s.frame := rfl
@[simp] theorem startRead_hum (p : PinId) (v : Env) (s : State) : (startRead p v s).hum = 0 := rfl
@[simp] theorem startRead_tmp (p : PinId) (v : Env) (s : State) : (startRead p v s).tmp = 0 := rfl
@[simp] theorem startRead_chk (p : PinId) (v : Env) (s : State) : (startRead p v s).chk = 0 := rfl
@[simp] theorem startRead_t (p : PinId) (v : Env) (s : State) : (startRead p v s).t = 0 := rfl
@[simp] theorem startRead_rom (p : PinId) (v : Env) (s : State) : (startRead p v s).rom = s.rom := rfl
@[simp] theorem startRead_pinW (p : PinId) (v : Env) (s : State) : (startRead p v s).pinW = s.pinW := rfl
@[simp] theorem startRead_env (p : PinId) (v : Env) (s : State) : (startRead p v s).env = v := rfl
@[simp] theorem startRead_cfgLog (p : PinId) (v : Env) (s : State) : (startRead p v s).cfgLog = [] := rfl
@[simp] theorem startRead_lineBase (p : PinId) (v : Env) (s : State) : (startRead p v s).lineBase = s.lineCond := rfl
@[simp] theorem startRead_lineLog (p : PinId) (v : Env) (s : State) : (startRead p v s).lineLog = [] := rfl
@[simp] theorem startRead_inbox (p : PinId) (v : Env) (s : State) : (startRead p v s).inbox = s.inbox := rfl
@[simp] theorem startRead_draws (p : PinId) (v : Env) (s : State) : (startRead p v s).draws = s.draws := rfl

/-! ## `rst` -/

@[simp] theorem assertRst_e (s : State) : (assertRst s).e = 0 := rfl
@[simp] theorem assertRst_i (s : State) : (assertRst s).i = 0 := rfl
@[simp] theorem assertRst_upc (s : State) : (assertRst s).upc = 0 := rfl
@[simp] theorem assertRst_upcOver (s : State) : (assertRst s).upcOver = false := rfl
@[simp] theorem assertRst_busy (s : State) : (assertRst s).busy = false := rfl
@[simp] theorem assertRst_done (s : State) : (assertRst s).done = false := rfl
@[simp] theorem assertRst_crit (s : State) : (assertRst s).crit = false := rfl
@[simp] theorem assertRst_err (s : State) : (assertRst s).err = .none := rfl
@[simp] theorem assertRst_dir (s : State) : (assertRst s).dir = .input := rfl
@[simp] theorem assertRst_out (s : State) : (assertRst s).out = .high := rfl
@[simp] theorem assertRst_pin (s : State) : (assertRst s).pin = pinOnPort s.pinW (Config.freePin s.draws) := rfl
@[simp] theorem assertRst_samples (s : State) : (assertRst s).samples = Vector.ofFn (Config.freeSample s.draws) := rfl
@[simp] theorem assertRst_frame (s : State) : (assertRst s).frame = Vector.ofFn (Config.freeByte s.draws) := rfl
@[simp] theorem assertRst_hum (s : State) : (assertRst s).hum = 0 := rfl
@[simp] theorem assertRst_tmp (s : State) : (assertRst s).tmp = 0 := rfl
@[simp] theorem assertRst_chk (s : State) : (assertRst s).chk = 0 := rfl
@[simp] theorem assertRst_t (s : State) : (assertRst s).t = 0 := rfl
@[simp] theorem assertRst_rom (s : State) : (assertRst s).rom = s.rom := rfl
@[simp] theorem assertRst_pinW (s : State) : (assertRst s).pinW = s.pinW := rfl
@[simp] theorem assertRst_env (s : State) : (assertRst s).env = s.env := rfl
@[simp] theorem assertRst_cfgLog (s : State) : (assertRst s).cfgLog = [] := rfl
@[simp] theorem assertRst_lineBase (s : State) : (assertRst s).lineBase = .released := rfl
@[simp] theorem assertRst_lineLog (s : State) : (assertRst s).lineLog = [] := rfl
@[simp] theorem assertRst_inbox (s : State) : (assertRst s).inbox = s.inbox := rfl
@[simp] theorem assertRst_draws (s : State) : (assertRst s).draws = s.draws + 1 := rfl

/-! ## `UPC <- UPC + 1` below address 31 -/

@[simp] theorem upcPlusOne_e (s : State) : (upcPlusOne s).e = s.e := rfl
@[simp] theorem upcPlusOne_i (s : State) : (upcPlusOne s).i = s.i := rfl
@[simp] theorem upcPlusOne_upc (s : State) : (upcPlusOne s).upc = s.upc + 1 := rfl
@[simp] theorem upcPlusOne_upcOver (s : State) : (upcPlusOne s).upcOver = false := rfl
@[simp] theorem upcPlusOne_busy (s : State) : (upcPlusOne s).busy = s.busy := rfl
@[simp] theorem upcPlusOne_done (s : State) : (upcPlusOne s).done = s.done := rfl
@[simp] theorem upcPlusOne_crit (s : State) : (upcPlusOne s).crit = s.crit := rfl
@[simp] theorem upcPlusOne_err (s : State) : (upcPlusOne s).err = s.err := rfl
@[simp] theorem upcPlusOne_dir (s : State) : (upcPlusOne s).dir = s.dir := rfl
@[simp] theorem upcPlusOne_out (s : State) : (upcPlusOne s).out = s.out := rfl
@[simp] theorem upcPlusOne_pin (s : State) : (upcPlusOne s).pin = s.pin := rfl
@[simp] theorem upcPlusOne_samples (s : State) : (upcPlusOne s).samples = s.samples := rfl
@[simp] theorem upcPlusOne_frame (s : State) : (upcPlusOne s).frame = s.frame := rfl
@[simp] theorem upcPlusOne_hum (s : State) : (upcPlusOne s).hum = s.hum := rfl
@[simp] theorem upcPlusOne_tmp (s : State) : (upcPlusOne s).tmp = s.tmp := rfl
@[simp] theorem upcPlusOne_chk (s : State) : (upcPlusOne s).chk = s.chk := rfl
@[simp] theorem upcPlusOne_t (s : State) : (upcPlusOne s).t = s.t := rfl
@[simp] theorem upcPlusOne_rom (s : State) : (upcPlusOne s).rom = s.rom := rfl
@[simp] theorem upcPlusOne_pinW (s : State) : (upcPlusOne s).pinW = s.pinW := rfl
@[simp] theorem upcPlusOne_env (s : State) : (upcPlusOne s).env = s.env := rfl
@[simp] theorem upcPlusOne_cfgLog (s : State) : (upcPlusOne s).cfgLog = s.cfgLog := rfl
@[simp] theorem upcPlusOne_lineBase (s : State) : (upcPlusOne s).lineBase = s.lineBase := rfl
@[simp] theorem upcPlusOne_lineLog (s : State) : (upcPlusOne s).lineLog = s.lineLog := rfl
@[simp] theorem upcPlusOne_inbox (s : State) : (upcPlusOne s).inbox = s.inbox := rfl
@[simp] theorem upcPlusOne_draws (s : State) : (upcPlusOne s).draws = s.draws := rfl

end Sys2Proof.Machine
end

