-- ==== Sys2Proof/Laws/Trace.lean ====
section
/-! SUPPORT. What the poll loop of `WaitForLevel` answers, in terms of the line alone (41_timing_engine.md R113), and what the
data form of the oracle `lin` can express (log 1). -/

namespace Sys2Proof.Machine

/-! ## The data form loses no run -/

theorem segsLevelAt_map_range (f : Nat → Level) (rest : Level) (n start t : Nat) (h : t < n) :
    segsLevelAt rest ((List.range' start n).map fun k => (f k, 1)) t = f (start + t) := by
  induction n generalizing start t with
  | zero => omega
  | succ n ih =>
    rw [List.range'_succ, List.map_cons, segsLevelAt]
    cases t with
    | zero => simp
    | succ t =>
      rw [if_neg (by omega), Nat.add_sub_cancel, ih _ _ (by omega)]
      congr 1
      omega

/-- Every function `lin` is, up to any tick, the level of some trace: a read polls finitely many ticks, so a claim about
every trace is a claim about every `lin` (R37, D38; log 1). -/
theorem exists_trace_agreeing (f : Nat → Level) (n : Nat) : ∃ lin : Trace, ∀ t, t < n → lin.levelAt t = f t := by
  refine ⟨⟨(List.range' 0 n).map fun k => (f k, 1), .high⟩, fun t h => ?_⟩
  simpa [Trace.levelAt] using segsLevelAt_map_range f .high n 0 t h

/-! ## The poll loop -/

variable {lin : Trace} {target : Level} {timeout : Nat}

/-- The loop entered at tick `t0 + e` with `e` elapsed ends `Ok(n)` exactly when the line is first at the target at `t0 + n`,
inside the budget. -/
theorem pollLine_eq_ok_iff (t0 n : Nat) : ∀ fuel e, fuel + e = timeout + 2 →
    (pollLine lin target timeout fuel (t0 + e) e = .ok n ↔
      e ≤ n ∧ n ≤ timeout ∧ (∀ k, e ≤ k → k < n → lin.levelAt (t0 + k) ≠ target) ∧ lin.levelAt (t0 + n) = target)
  | 0, e, h => by simp only [pollLine, reduceCtorEq, false_iff]; omega
  | fuel + 1, e, h => by
    rw [pollLine]
    split
    · simp only [reduceCtorEq, false_iff]; omega
    · split
      · rename_i ht
        simp only [WaitResult.ok.injEq]
        constructor
        · rintro rfl
          exact ⟨le_rfl, by omega, fun k h1 h2 => by omega, ht⟩
        · rintro ⟨h1, -, h3, -⟩
          by_contra hne
          exact h3 e le_rfl (by omega) ht
      · rename_i ht
        rw [Nat.add_assoc, pollLine_eq_ok_iff t0 n fuel (e + 1) (by omega)]
        constructor
        · rintro ⟨h1, h2, h3, h4⟩
          refine ⟨by omega, h2, fun k h5 h6 => ?_, h4⟩
          rcases Nat.eq_or_lt_of_le h5 with rfl | h5
          · exact ht
          · exact h3 k h5 h6
        · rintro ⟨h1, h2, h3, h4⟩
          refine ⟨?_, h2, fun k h5 h6 => h3 k (by omega) h6, h4⟩
          rcases Nat.eq_or_lt_of_le h1 with rfl | h1
          · exact absurd h4 ht
          · exact h1

/-- The loop ends in `Timeout` exactly when no poll inside the budget sees the target. -/
theorem pollLine_eq_timeout_iff (t0 : Nat) : ∀ fuel e, fuel + e = timeout + 2 →
    (pollLine lin target timeout fuel (t0 + e) e = .timeout ↔
      ∀ k, e ≤ k → k ≤ timeout → lin.levelAt (t0 + k) ≠ target)
  | 0, e, h => by
    simp only [pollLine, true_iff]
    intro k h1 h2
    omega
  | fuel + 1, e, h => by
    rw [pollLine]
    split
    · simp only [true_iff]
      intro k h1 h2
      omega
    · split
      · rename_i ht
        simp only [reduceCtorEq, false_iff]
        exact fun h3 => h3 e le_rfl (by omega) ht
      · rename_i ht
        rw [Nat.add_assoc, pollLine_eq_timeout_iff t0 fuel (e + 1) (by omega)]
        constructor
        · intro h3 k h4 h5
          rcases Nat.eq_or_lt_of_le h4 with rfl | h4
          · exact ht
          · exact h3 k h4 h5
        · exact fun h3 k h4 h5 => h3 k (by omega) h5

/-- The loop of a whole wait and `SeenAfter`. -/
theorem pollLine_ok_iff_seenAfter (t0 n : Nat) :
    pollLine lin target timeout (timeout + 2) t0 0 = .ok n ↔ SeenAfter lin t0 target timeout n := by
  have h := pollLine_eq_ok_iff (lin := lin) (target := target) (timeout := timeout) t0 n (timeout + 2) 0 rfl
  exact h.trans (by simp [SeenAfter])

/-- The loop of a whole wait and `NeverSeen`. -/
theorem pollLine_timeout_iff_neverSeen (t0 : Nat) :
    pollLine lin target timeout (timeout + 2) t0 0 = .timeout ↔ NeverSeen lin t0 target timeout := by
  have h := pollLine_eq_timeout_iff (lin := lin) (target := target) (timeout := timeout) t0 (timeout + 2) 0 rfl
  exact h.trans (by simp [NeverSeen])

/-- The loop asks the line only at the ticks of its budget. -/
theorem pollLine_congr {lin' : Trace} (t0 : Nat)
    (h : ∀ k, k ≤ timeout → lin'.levelAt (t0 + k) = lin.levelAt (t0 + k)) : ∀ fuel e,
    pollLine lin' target timeout fuel (t0 + e) e = pollLine lin target timeout fuel (t0 + e) e
  | 0, _ => rfl
  | fuel + 1, e => by
    rw [pollLine, pollLine]
    split
    · rfl
    · rw [h e (by omega), Nat.add_assoc, pollLine_congr t0 h fuel (e + 1)]

/-! ## Waiting as a relation -/

/-- A wait sees its level or it never does. -/
theorem seenAfter_or_neverSeen (lin : Trace) (t0 : Nat) (target : Level) (timeout : Nat) :
    (∃ n, SeenAfter lin t0 target timeout n) ∨ NeverSeen lin t0 target timeout := by
  cases h : pollLine lin target timeout (timeout + 2) t0 0 with
  | ok n => exact .inl ⟨n, (pollLine_ok_iff_seenAfter t0 n).mp h⟩
  | timeout => exact .inr ((pollLine_timeout_iff_neverSeen t0).mp h)

/-- `Wait` of R162 finds the number of ticks of R113. -/
theorem specWait_eq_some_iff (t0 n : Nat) :
    specWait lin t0 target timeout = some n ↔ SeenAfter lin t0 target timeout n := by
  unfold specWait SeenAfter
  rw [List.find?_range_eq_some]
  simp only [beq_iff_eq, List.mem_range, Bool.not_eq_eq_eq_not, Bool.not_true, beq_eq_false_iff_ne, ne_eq]
  constructor
  · rintro ⟨h1, h2, h3⟩
    exact ⟨by omega, h3, h1⟩
  · rintro ⟨h1, h2, h3⟩
    exact ⟨h3, by omega, h2⟩

theorem specWait_eq_none_iff (t0 : Nat) :
    specWait lin t0 target timeout = Option.none ↔ NeverSeen lin t0 target timeout := by
  simp [specWait, NeverSeen]

end Sys2Proof.Machine
end

