-- ==== Sys2Proof/Laws/Ops.lean ====
section
/-! SUPPORT. One lemma for each shared operation of Machine/Ops.lean that says everything it can answer; the provers cite it
instead of unfolding the operation. -/

namespace Sys2Proof.Machine

/-! ## The micro-program counter -/

theorem advance_eq_upcPlusOne {s : State} (h : s.upc ≠ 31) : advance s = upcPlusOne s := by
  have h2 : (s.upc == 31) = false := by simpa using h
  unfold advance upcPlusOne
  rw [if_neg h, h2]

theorem advance_at_31 {s : State} (h : s.upc = 31) : advance s = { s with upc := 31, upcOver := true } := by
  simp [advance, h]

/-! ## The record of the line -/

/-- The record ends in the condition that was entered last. -/
@[simp] theorem lastCond_recordChange (base : LineCond) (t : Nat) (c : LineCond) (log : List (Nat × LineCond)) :
    lastCond base (recordChange base t c log) = c := by
  unfold recordChange
  split
  · exact Eq.symm ‹_›
  · rfl

theorem mem_earlierChanges {t : Nat} {log : List (Nat × LineCond)} {x : Nat × LineCond}
    (h : x ∈ earlierChanges t log) : x ∈ log := by
  cases log with
  | nil => exact h
  | cons y log =>
    obtain ⟨u, c⟩ := y
    simp only [earlierChanges] at h
    split at h
    · exact List.mem_cons_of_mem _ h
    · exact h

theorem mem_recordChange {base : LineCond} {t : Nat} {c : LineCond} {log : List (Nat × LineCond)} {x : Nat × LineCond}
    (h : x ∈ recordChange base t c log) : x = (t, c) ∨ x ∈ log := by
  unfold recordChange at h
  split at h
  · exact .inr (mem_earlierChanges h)
  · rcases List.mem_cons.mp h with h | h
    · exact .inl h
    · exact .inr (mem_earlierChanges h)

/-- The entries kept are all before the tick, when the record is in order and not ahead of it. -/
theorem earlierChanges_before {t : Nat} {log : List (Nat × LineCond)} (hr : log.Pairwise fun x y => y.1 < x.1)
    (hp : ∀ x ∈ log, x.1 ≤ t) : (∀ x ∈ earlierChanges t log, x.1 < t) ∧
      (earlierChanges t log).Pairwise fun x y => y.1 < x.1 := by
  cases log with
  | nil => exact ⟨by simp [earlierChanges], List.Pairwise.nil⟩
  | cons y log =>
    obtain ⟨u, c⟩ := y
    rw [List.pairwise_cons] at hr
    have hy : u ≤ t := hp (u, c) (by simp)
    simp only [earlierChanges]
    split
    · rename_i h
      exact ⟨fun x hx => lt_of_lt_of_le (hr.1 x hx) hy, hr.2⟩
    · rename_i h
      refine ⟨fun x hx => ?_, List.pairwise_cons.mpr hr⟩
      rcases List.mem_cons.mp hx with rfl | hx
      · exact lt_of_le_of_ne hy h
      · exact (hr.1 x hx).trans (lt_of_le_of_ne hy h)

theorem changesDiffer_earlierChanges {base : LineCond} {t : Nat} {log : List (Nat × LineCond)}
    (h : changesDiffer base log) : changesDiffer base (earlierChanges t log) := by
  cases log with
  | nil => exact h
  | cons y log =>
    obtain ⟨u, c⟩ := y
    simp only [earlierChanges]
    split
    · exact h.2
    · exact h

/-! ## The pin identifier -/

/-- The port of `w` bits carries a number that fits it as it is. -/
theorem pinOnPort_of_lt {w : Nat} {pin : PinId} (h : pin < 2 ^ w) : pinOnPort w pin = pin := Nat.mod_eq_of_lt h

/-- What the port carries fits it. -/
theorem pinOnPort_lt (w : Nat) (pin : PinId) : pinOnPort w pin < 2 ^ w := Nat.mod_lt _ (Nat.two_pow_pos w)

/-! ## The capability -/

/-- The strobe of the last call, when there is one: its direction in its tick of a read in progress. -/
theorem dirReq_of_cons {s : State} {c : CfgCall} {rest : List CfgCall} (h : s.cfgLog = c :: rest) :
    s.dirReq = if s.busy = true ∧ c.tick = s.t then some c.dir else Option.none := by
  simp [State.dirReq, h]

theorem dirReq_of_nil {s : State} (h : s.cfgLog = []) : s.dirReq = Option.none := by
  simp [State.dirReq, h]

/-- Idle, no strobe stands (R95). -/
theorem dirReq_of_idle {s : State} (h : s.busy = false) : s.dirReq = Option.none := by
  cases hc : s.cfgLog with
  | nil => exact dirReq_of_nil hc
  | cons c rest => simp [dirReq_of_cons hc, h]

/-- The strobe is a function of the record of calls, of `BUSY` and of `T`. -/
theorem dirReq_congr {s t : State} (hc : t.cfgLog = s.cfgLog) (hb : t.busy = s.busy) (ht : t.t = s.t) :
    t.dirReq = s.dirReq := by
  simp [State.dirReq, hc, hb, ht]

/-- When `T` has gone past every call of the record, no strobe stands. -/
theorem dirReq_of_past {s : State} (h : ∀ c ∈ s.cfgLog, c.tick < s.t) : s.dirReq = Option.none := by
  cases hc : s.cfgLog with
  | nil => exact dirReq_of_nil hc
  | cons c rest =>
    have := h c (by simp [hc])
    rw [dirReq_of_cons hc, if_neg]
    omega

/-- `SetDirection` on `Ok` (R98). -/
theorem setDirection_of_ok {a : Direction} {s : State} (h : s.env.cfgAt s.cfgLog.length = .ok) :
    setDirection a s =
      (.ok, noteLine { s with cfgLog := ⟨s.t, s.pin, a, .ok⟩ :: s.cfgLog, dir := a }) := by
  simp [setDirection, configure, h]

/-- `SetDirection` on `ConfigError` (R98). -/
theorem setDirection_of_configError {a : Direction} {s : State}
    (h : s.env.cfgAt s.cfgLog.length = .configError) :
    setDirection a s = (.configError, { s with cfgLog := ⟨s.t, s.pin, a, .configError⟩ :: s.cfgLog }) := by
  simp [setDirection, configure, h]

/-- `SetLevel` (R99). -/
theorem setLevel_of_output {a : Level} {s : State} (h : s.dir = .output) :
    setLevel a s = .ok (noteLine { s with out := a }) := by
  simp [setLevel, h]

theorem setLevel_of_input {a : Level} {s : State} (h : s.dir = .input) :
    setLevel a s = .error .levelWriteWhileInput := by
  simp [setLevel, h]

/-- `GetLevel` (R100). -/
theorem getLevel_of_input {s : State} (h : s.dir = .input) : getLevel s = .ok (s.env.lin.levelAt s.t) := by
  simp [getLevel, h]

theorem getLevel_of_output {s : State} (h : s.dir = .output) : getLevel s = .error .levelReadWhileOutput := by
  simp [getLevel, h]

/-- A wait that sees its level (R112). -/
theorem waitForLevel_of_seen {a : Level} {imm : Count} {s : State} {n : Nat} (hd : s.dir = .input)
    (h : SeenAfter s.env.lin s.t a imm.toNat n) : waitForLevel a imm s = .ok (.ok n, elapse n s) := by
  simp only [waitForLevel, getLevel_of_input hd, nowUs]
  rw [(pollLine_ok_iff_seenAfter s.t n).mpr h]

/-- A wait that never sees its level (R112). -/
theorem waitForLevel_of_never {a : Level} {imm : Count} {s : State} (hd : s.dir = .input)
    (h : NeverSeen s.env.lin s.t a imm.toNat) :
    waitForLevel a imm s = .ok (.timeout, elapse (imm.toNat + 1) s) := by
  simp only [waitForLevel, getLevel_of_input hd, nowUs]
  rw [(pollLine_timeout_iff_neverSeen s.t).mpr h]

/-- A wait on a pin that is an output (R100). -/
theorem waitForLevel_of_output {a : Level} {imm : Count} {s : State} (hd : s.dir = .output) :
    waitForLevel a imm s = .error .levelReadWhileOutput := by
  simp [waitForLevel, getLevel_of_output hd]

/-- Everything a wait that does not fault can do (R112). -/
theorem waitForLevel_cases {a : Level} {imm : Count} {s t : State} {r : WaitResult}
    (h : waitForLevel a imm s = .ok (r, t)) : s.dir = .input ∧
      ((∃ n, r = .ok n ∧ SeenAfter s.env.lin s.t a imm.toNat n ∧ t = elapse n s) ∨
        (r = .timeout ∧ NeverSeen s.env.lin s.t a imm.toNat ∧ t = elapse (imm.toNat + 1) s)) := by
  cases hd : s.dir with
  | output => rw [waitForLevel_of_output hd] at h; cases h
  | input =>
    refine ⟨rfl, ?_⟩
    rcases seenAfter_or_neverSeen s.env.lin s.t a imm.toNat with ⟨n, hn⟩ | hn
    · rw [waitForLevel_of_seen hd hn] at h
      cases h
      exact .inl ⟨n, rfl, hn, rfl⟩
    · rw [waitForLevel_of_never hd hn] at h
      cases h
      exact .inr ⟨rfl, hn, rfl⟩

/-- `S[i] <- v` (R51). -/
theorem setSample_of_lt {i : Index} {v : Count} {s : State} (h : i.toNat < Config.nBits) :
    setSample i v s = .ok { s with samples := s.samples.set i.toNat v h } := by
  simp only [setSample, dif_pos h]

theorem setSample_of_ge {i : Index} {v : Count} {s : State} (h : Config.nBits ≤ i.toNat) :
    setSample i v s = .error .sampleIndexOutOfRange := by
  simp only [setSample, dif_neg (Nat.not_lt.mpr h)]

end Sys2Proof.Machine
end

