-- ==== Sys2Proof/Laws/Exec.lean ====
section
/-! SUPPORT. The meanings under the conditions they branch on, and their inversion: if a micro-operation answers a next
state, one of these cases holds. -/

namespace Sys2Proof.Machine

/-! ## Forward: what a micro-operation answers -/

theorem exec_dir_of_ok {a : Direction} {x : ErrorKind} {s : State} (h : s.env.cfgAt s.cfgLog.length = .ok) :
    exec (.dir a x) s =
      .next (advance (noteLine { s with cfgLog := ⟨s.t, s.pin, a, .ok⟩ :: s.cfgLog, dir := a })) := by
  simp only [exec, execDir, setDirection_of_ok h]

theorem exec_dir_of_configError {a : Direction} {x : ErrorKind} {s : State}
    (h : s.env.cfgAt s.cfgLog.length = .configError) :
    exec (.dir a x) s = .next (abort x { s with cfgLog := ⟨s.t, s.pin, a, .configError⟩ :: s.cfgLog }) := by
  simp only [exec, execDir, setDirection_of_configError h]

theorem exec_lvl_of_output {a : Level} {s : State} (h : s.dir = .output) :
    exec (.lvl a) s = .next (advance (noteLine { s with out := a })) := by
  simp only [exec, execLvl, setLevel_of_output h]

theorem exec_lvl_of_input {a : Level} {s : State} (h : s.dir = .input) :
    exec (.lvl a) s = .fault .levelWriteWhileInput := by
  simp only [exec, execLvl, setLevel_of_input h]

theorem exec_wait_of_seen {a : Level} {n : Count} {x : ErrorKind} {s : State} {k : Nat} (hd : s.dir = .input)
    (h : SeenAfter s.env.lin s.t a n.toNat k) : exec (.wait a n x) s = .next (advance (elapse k s)) := by
  simp only [exec, execWait, waitForLevel_of_seen hd h]

theorem exec_wait_of_never {a : Level} {n : Count} {x : ErrorKind} {s : State} (hd : s.dir = .input)
    (h : NeverSeen s.env.lin s.t a n.toNat) :
    exec (.wait a n x) s = .next (abort x (elapse (n.toNat + 1) s)) := by
  simp only [exec, execWait, waitForLevel_of_never hd h]

theorem exec_wait_of_output {a : Level} {n : Count} {x : ErrorKind} {s : State} (hd : s.dir = .output) :
    exec (.wait a n x) s = .fault .levelReadWhileOutput := by
  simp only [exec, execWait, waitForLevel_of_output hd]

theorem exec_waitm_of_seen {a : Level} {n : Count} {x : ErrorKind} {s : State} {k : Nat} (hd : s.dir = .input)
    (h : SeenAfter s.env.lin s.t a n.toNat k) (hi : s.i.toNat < Config.nBits) :
    exec (.waitm a n x) s =
      .next (advance { elapse k s with samples := s.samples.set s.i.toNat (BitVec.ofNat 16 k) hi }) := by
  simp only [exec, execWaitm, waitForLevel_of_seen hd h, elapse_i, elapse_e, setSample_of_lt hi, elapse_samples]

theorem exec_waitm_of_seen_outOfRange {a : Level} {n : Count} {x : ErrorKind} {s : State} {k : Nat}
    (hd : s.dir = .input) (h : SeenAfter s.env.lin s.t a n.toNat k) (hi : Config.nBits ≤ s.i.toNat) :
    exec (.waitm a n x) s = .fault .sampleIndexOutOfRange := by
  simp only [exec, execWaitm, waitForLevel_of_seen hd h, elapse_i, setSample_of_ge hi]

theorem exec_waitm_of_never {a : Level} {n : Count} {x : ErrorKind} {s : State} (hd : s.dir = .input)
    (h : NeverSeen s.env.lin s.t a n.toNat) :
    exec (.waitm a n x) s = .next (abort x (elapse (n.toNat + 1) s)) := by
  simp only [exec, execWaitm, waitForLevel_of_never hd h]

theorem exec_waitm_of_output {a : Level} {n : Count} {x : ErrorKind} {s : State} (hd : s.dir = .output) :
    exec (.waitm a n x) s = .fault .levelReadWhileOutput := by
  simp only [exec, execWaitm, waitForLevel_of_output hd]

theorem exec_loop_back {tgt : Addr} {cnt : BitVec 8} {s : State} (h63 : s.i.toNat ≠ 63)
    (h : s.i.toNat + 1 < cnt.toNat) : exec (.loop tgt cnt) s = .next (setUpc tgt { s with i := s.i + 1 }) := by
  simp only [exec, execLoop, if_neg h63, if_pos h]

theorem exec_loop_through {tgt : Addr} {cnt : BitVec 8} {s : State} (h63 : s.i.toNat ≠ 63)
    (h : cnt.toNat ≤ s.i.toNat + 1) : exec (.loop tgt cnt) s = .next (advance { s with i := s.i + 1 }) := by
  simp only [exec, execLoop, if_neg h63, if_neg (Nat.not_lt.mpr h)]

/-! ## Inversion -/

theorem execCent_cases {s t : State} (h : exec .cent s = .next t) : t = advance (critEnter s) := by
  simpa [exec, execCent] using h.symm

theorem execCext_cases {s t : State} (h : exec .cext s = .next t) : t = advance (critExit s) := by
  simpa [exec, execCext] using h.symm

theorem execEnd_cases {s t : State} (h : exec .endOp s = .next t) : t = finish s := by
  simpa [exec, execEnd] using h.symm

/-- `DIR` (R101): the direction is applied, or the abort is taken; the call is entered in the log either way. -/
theorem execDir_cases {a : Direction} {x : ErrorKind} {s t : State} (h : exec (.dir a x) s = .next t) :
    (s.env.cfgAt s.cfgLog.length = .ok ∧
      t = advance (noteLine { s with cfgLog := ⟨s.t, s.pin, a, .ok⟩ :: s.cfgLog, dir := a })) ∨
    (s.env.cfgAt s.cfgLog.length = .configError ∧
      t = abort x { s with cfgLog := ⟨s.t, s.pin, a, .configError⟩ :: s.cfgLog }) := by
  cases hc : s.env.cfgAt s.cfgLog.length with
  | ok => exact .inl ⟨rfl, by simpa [exec, execDir, setDirection_of_ok hc] using h.symm⟩
  | configError => exact .inr ⟨rfl, by simpa [exec, execDir, setDirection_of_configError hc] using h.symm⟩

/-- `LVL` (R102). -/
theorem execLvl_cases {a : Level} {s t : State} (h : exec (.lvl a) s = .next t) :
    s.dir = .output ∧ t = advance (noteLine { s with out := a }) := by
  by_cases hd : s.dir = .output
  · refine ⟨hd, ?_⟩
    simp only [exec, execLvl, setLevel_of_output hd] at h
    exact (Host.Outcome.next.inj h).symm
  · have hi : s.dir = .input := by
      cases h2 : s.dir with
      | input => rfl
      | output => exact absurd h2 hd
    simp [exec, execLvl, setLevel_of_input hi] at h

/-- `DLY` (R114). -/
theorem execDly_cases {n : Count} {s t : State} (h : exec (.dly n) s = .next t) :
    t = advance { s with t := s.t + n.toNat, e := n } := by
  simpa [exec, execDly, delayUs] using h.symm

/-- `WAIT` (R115). -/
theorem execWait_cases {a : Level} {n : Count} {x : ErrorKind} {s t : State} (h : exec (.wait a n x) s = .next t) :
    s.dir = .input ∧
      ((∃ k, SeenAfter s.env.lin s.t a n.toNat k ∧ t = advance (elapse k s)) ∨
        (NeverSeen s.env.lin s.t a n.toNat ∧ t = abort x (elapse (n.toNat + 1) s))) := by
  simp only [exec, execWait] at h
  split at h
  · cases h
  · rename_i s1 hw
    obtain ⟨hd, ⟨k, hk, -, -⟩ | ⟨-, hn, rfl⟩⟩ := waitForLevel_cases hw
    · cases hk
    · exact ⟨hd, .inr ⟨hn, by simpa using h.symm⟩⟩
  · rename_i k s1 hw
    obtain ⟨hd, ⟨m, hm, hs, rfl⟩ | ⟨hm, -, -⟩⟩ := waitForLevel_cases hw
    · cases hm
      exact ⟨hd, .inl ⟨k, hs, by simpa using h.symm⟩⟩
    · cases hm

/-- `WAITM` (R116). -/
theorem execWaitm_cases {a : Level} {n : Count} {x : ErrorKind} {s t : State} (h : exec (.waitm a n x) s = .next t) :
    s.dir = .input ∧
      ((∃ k, ∃ hi : s.i.toNat < Config.nBits, SeenAfter s.env.lin s.t a n.toNat k ∧
          t = advance { elapse k s with samples := s.samples.set s.i.toNat (BitVec.ofNat 16 k) hi }) ∨
        (NeverSeen s.env.lin s.t a n.toNat ∧ t = abort x (elapse (n.toNat + 1) s))) := by
  simp only [exec, execWaitm] at h
  split at h
  · cases h
  · rename_i s1 hw
    obtain ⟨hd, ⟨k, hk, -, -⟩ | ⟨-, hn, rfl⟩⟩ := waitForLevel_cases hw
    · cases hk
    · exact ⟨hd, .inr ⟨hn, by simpa using h.symm⟩⟩
  · rename_i k s1 hw
    obtain ⟨hd, ⟨m, hm, hs, rfl⟩ | ⟨hm, -, -⟩⟩ := waitForLevel_cases hw
    · cases hm
      by_cases hi : s.i.toNat < Config.nBits
      · rw [elapse_i, setSample_of_lt hi] at h
        exact ⟨hd, .inl ⟨k, hi, hs, by simpa using h.symm⟩⟩
      · rw [elapse_i, setSample_of_ge (Nat.not_lt.mp hi)] at h
        cases h
    · cases hm

/-- `LOOP` (R155). -/
theorem execLoop_cases {tgt : Addr} {cnt : BitVec 8} {s t : State} (h : exec (.loop tgt cnt) s = .next t) :
    s.i.toNat < 63 ∧
      ((s.i.toNat + 1 < cnt.toNat ∧ t = setUpc tgt { s with i := s.i + 1 }) ∨
        (cnt.toNat ≤ s.i.toNat + 1 ∧ t = advance { s with i := s.i + 1 })) := by
  have := s.i.isLt
  simp only [exec, execLoop] at h
  split at h
  · cases h
  · split at h
    · exact ⟨by omega, .inl ⟨‹_›, by simpa using h.symm⟩⟩
    · exact ⟨by omega, .inr ⟨by omega, by simpa using h.symm⟩⟩

theorem execDec_cases {thr : Count} {s t : State} (h : exec (.dec thr) s = .next t) :
    t = advance (setFrame (pack (classifyAll s.samples thr)) s) := by
  simpa [exec, execDec] using h.symm

theorem execVal_cases {s t : State} (h : exec .val s = .next t) :
    t = advance (keepChecksum { s with err := valError s.frame s.err }) := by
  simpa [exec, execVal] using h.symm

theorem execCvt_cases {s t : State} (h : exec .cvt s = .next t) : t = advance (setMeasurement s) := by
  simpa [exec, execCvt] using h.symm

end Sys2Proof.Machine
end

