-- ==== Sys2Proof/Laws/Frame.lean ====
section
/-! SUPPORT. The values of the Frame Decoder as numbers and as bits (42_frame_decoder.md R130, R132, R134). -/

namespace Sys2Proof.Machine

/-- Bit `7 - j` of eight bits put together most significant first is bit number `j`. -/
theorem octet_bit : ∀ (b0 b1 b2 b3 b4 b5 b6 b7 : Bool) (j : Fin 8),
    (BitVec.ofBool b0 ++ BitVec.ofBool b1 ++ BitVec.ofBool b2 ++ BitVec.ofBool b3 ++ BitVec.ofBool b4 ++
      BitVec.ofBool b5 ++ BitVec.ofBool b6 ++ BitVec.ofBool b7 : BitVec 8).getLsbD (7 - j.val) =
      #v[b0, b1, b2, b3, b4, b5, b6, b7][j] := by decide

theorem packByte_bit (bits : Vector Bool Config.nBits) (k : Fin Config.nBytes) (j : Fin 8)
    (h : 8 * k.val + j.val < Config.nBits) :
    (packByte bits k).getLsbD (7 - j.val) = bits[8 * k.val + j.val]'h := by
  obtain ⟨j, hj⟩ := j
  refine (octet_bit _ _ _ _ _ _ _ _ ⟨j, hj⟩).trans ?_
  interval_cases j <;> rfl

theorem checksum_toNat (b0 b1 b2 b3 : Byte) :
    (checksum b0 b1 b2 b3).toNat = (b0.toNat + b1.toNat + b2.toNat + b3.toNat) % 256 := by
  simp [checksum]

/-- The tenths fit their register: the greatest is 2805 (R134). -/
theorem convert_toNat (bInt bFrac : Byte) : (convert bInt bFrac).toNat = 10 * bInt.toNat + bFrac.toNat := by
  have := bInt.isLt
  have := bFrac.isLt
  simp only [convert, BitVec.toNat_ofNat]
  omega

end Sys2Proof.Machine
end

