-- ==== Sys2Proof/Laws/PerInstr.lean ====
section
/-! SUPPORT. The statements made for each micro-operation on its own, as syntax: the word of a micro-operation carries its
operation code in bits 23:20 (30_encoding.md R70, R72). -/

namespace Sys2Proof.Laws.EncodeOp

/-- The operation code in the word of `i` is the one R72 gives its mnemonic. -/
def Statement (i : Instr) : Prop := opField (encode i) = i.opcode

theorem cent : Statement .cent := opField_assemble _ _ _ _
theorem cext : Statement .cext := opField_assemble _ _ _ _
theorem dir (a : Direction) (err : ErrorKind) : Statement (.dir a err) := opField_assemble _ _ _ _
theorem lvl (a : Level) : Statement (.lvl a) := opField_assemble _ _ _ _
theorem dly (imm : Count) : Statement (.dly imm) := opField_assemble _ _ _ _
theorem wait (a : Level) (imm : Count) (err : ErrorKind) : Statement (.wait a imm err) := opField_assemble _ _ _ _
theorem waitm (a : Level) (imm : Count) (err : ErrorKind) : Statement (.waitm a imm err) := opField_assemble _ _ _ _
theorem loop (tgt : Addr) (cnt : BitVec 8) : Statement (.loop tgt cnt) := opField_assemble _ _ _ _
theorem dec (imm : Count) : Statement (.dec imm) := opField_assemble _ _ _ _
theorem val : Statement .val := opField_assemble _ _ _ _
theorem cvt : Statement .cvt := opField_assemble _ _ _ _
theorem endOp : Statement .endOp := opField_assemble _ _ _ _

end Sys2Proof.Laws.EncodeOp
end

