-- ==== Sys2Proof/Laws/Step.lean ====
section
/-! SUPPORT. Everything a step can do (43_sequencer.md R152), what the fetch gives in the canonical micro-program (R82), and
the induction over runs, packaged once. -/

namespace Sys2Proof.Machine

/-- If a step answers a next state: START of an Idle CORE, `rst`, a preemption of an Idle CORE, idling, or the meaning of the
micro-operation that was fetched. -/
theorem step_cases {s t : State} (h : step s = .next t) :
    (∃ p v, dueMove s = some (.start p v) ∧ s.busy = false ∧ t = startRead p v (takeInbox s)) ∨
    (dueMove s = some .rst ∧ t = assertRst (takeInbox s)) ∨
    (dueMove s = some .preempt ∧ s.busy = false ∧ t = takeInbox s) ∨
    (dueMove s = Option.none ∧ s.busy = false ∧ t = takeInbox s) ∨
    (dueMove s = Option.none ∧ s.busy = true ∧
      ∃ i, fetch (takeInbox s) = .ok i ∧ exec i (takeInbox s) = .next t) := by
  unfold step at h
  cases hm : dueMove s with
  | some m =>
    rw [hm] at h
    cases m with
    | start p v =>
      cases hb : s.busy with
      | true => simp [makeMove, hb] at h
      | false =>
        left
        exact ⟨p, v, rfl, rfl, by simpa [makeMove, hb] using h.symm⟩
    | rst => exact .inr (.inl ⟨rfl, by simpa [makeMove] using h.symm⟩)
    | preempt =>
      cases hb : s.busy with
      | true => simp [makeMove, hb] at h
      | false => exact .inr (.inr (.inl ⟨rfl, rfl, by simpa [makeMove, hb] using h.symm⟩))
  | none =>
    rw [hm] at h
    simp only [sequencerStep] at h
    split at h
    · rename_i hb
      split at h
      · rename_i i hf
        exact .inr (.inr (.inr (.inr ⟨rfl, hb, i, hf, h⟩)))
      · cases h
    · rename_i hb
      exact .inr (.inr (.inr (.inl ⟨rfl, by simpa using hb, by simpa using h.symm⟩)))

/-- With an empty inbox nothing is due and the step leaves the inbox alone. -/
theorem dueMove_of_nil {s : State} (h : s.inbox = []) : dueMove s = Option.none := by
  simp [dueMove, h]

theorem takeInbox_of_nil {s : State} (h : s.inbox = []) : takeInbox s = s := by
  cases s
  simp only at h
  subst h
  rfl

/-- A move at the head of the inbox with nothing left to count is due, and it is taken out. -/
theorem dueMove_of_cons {s : State} {m : HostMove} {rest : List Arrival} (h : s.inbox = ⟨0, m⟩ :: rest) :
    dueMove s = some m ∧ takeInbox s = { s with inbox := rest } := by
  simp [dueMove, takeInbox, inboxAfter, h]

/-- The step of a busy CORE with an empty inbox is the meaning of what it fetches. -/
theorem step_of_fetch {s : State} {i : Instr} (hb : s.busy = true) (hi : s.inbox = []) (hf : fetch s = .ok i) :
    step s = exec i s := by
  simp [step, dueMove_of_nil hi, takeInbox_of_nil hi, sequencerStep, hb, hf]

/-! ## The fetch -/

/-- A word of a ROM image is the word of the program's micro-operation at that address. -/
theorem romWord_romImage {prog : List Instr} {a : Addr} {i : Instr} (h : prog[a.toNat]? = some i) :
    romWord (romImage prog) a = encode i := by
  have ha : (romImage prog)[a.toNat]'a.isLt = encode i := by
    simp [romImage, h]
  exact ha

theorem timeoutAllowed_of_ne {x : Count} (h : (x != 65535) = true) : timeoutAllowed x = true := by
  have h1 := x.isLt
  have h2 : x ≠ 65535 := by simpa using h
  have h3 : x.toNat ≠ 65535 := fun hx => h2 (BitVec.eq_of_toNat_eq hx)
  simp only [timeoutAllowed, decide_eq_true_eq]
  omega

/-- The canonical micro-operations are well-formed when the timeouts are. -/
theorem canonicalProgram_wf {p : Config.Params} (hp : p.wf = true) : ∀ i ∈ canonicalProgram p, i.wf = true := by
  simp only [Config.Params.wf, Bool.and_eq_true] at hp
  obtain ⟨⟨⟨h1, h2⟩, h3⟩, h4⟩ := hp
  intro i hi
  simp only [canonicalProgram, List.mem_cons, List.not_mem_nil, or_false] at hi
  rcases hi with rfl | rfl | rfl | rfl | rfl | rfl | rfl | rfl | rfl | rfl | rfl | rfl | rfl | rfl | rfl | rfl | rfl <;>
    first
    | rfl
    | exact timeoutAllowed_of_ne h1
    | exact timeoutAllowed_of_ne h2
    | exact timeoutAllowed_of_ne h3
    | exact timeoutAllowed_of_ne h4

/-! ## Runs -/

theorem core_run_zero (s : State) : Sys2Proof.core.run 0 s = .next s := rfl

/-- One step of a run and the rest of it. -/
theorem core_run_succ_of_step {s t : State} (k : Nat) (h : step s = .next t) :
    Sys2Proof.core.run (k + 1) s = Sys2Proof.core.run k t := by
  have h' : Sys2Proof.core.step s = .next t := h
  refine (Host.Core.run.eq_2 Sys2Proof.core s k).trans ?_
  rw [h']

/-- A run that goes on took a first step that does. -/
theorem core_run_succ_eq_next {s t : State} {k : Nat} (h : Sys2Proof.core.run (k + 1) s = .next t) :
    ∃ s1, step s = .next s1 ∧ Sys2Proof.core.run k s1 = .next t := by
  have h2 := (Host.Core.run.eq_2 Sys2Proof.core s k).symm.trans h
  cases h3 : step s with
  | next s1 =>
    exact ⟨s1, rfl, by rw [← core_run_succ_of_step k h3]; exact h⟩
  | fault r =>
    have h' : Sys2Proof.core.step s = .fault r := h3
    rw [h'] at h2
    cases h2
  | refused r =>
    have h' : Sys2Proof.core.step s = .refused r := h3
    rw [h'] at h2
    cases h2

/-- What every step keeps, every run keeps. -/
theorem run_keeps {P : State → Prop} (hstep : ∀ s t, P s → step s = .next t → P t) :
    ∀ (k : Nat) (s t : State), P s → Sys2Proof.core.run k s = .next t → P t
  | 0, s, t, hs, h => by
    rw [core_run_zero] at h
    cases h
    exact hs
  | k + 1, s, t, hs, h => by
    obtain ⟨s1, h1, h2⟩ := core_run_succ_eq_next h
    exact run_keeps hstep k s1 t (hstep s s1 hs h1) h2

end Sys2Proof.Machine
end

