-- ==== Sys2Proof/Tests/Slice0.lean ====
section
/-! SUPPORT. Small tests of the model, each with the vector or rule of spec/ its expected result is taken from, and for every
obligation with hypotheses a state and operands that meet them all (`witness_…`). -/

namespace Sys2Proof.Tests

open Sys2Proof.Machine

/-! ## Helpers -/

/-- A read in progress at an address, on a line with a given trace and direction. -/
def at' (upc : Addr) (dir : Direction) (lin : Trace) (cfg : List CfgAnswer) : State :=
  { State.reset with upc := upc, busy := true, dir := dir, env := { lin := lin, cfg := cfg, cfgRest := .ok } }

def highAll : Trace := { segs := [], rest := .high }
def lowAll : Trace := { segs := [], rest := .low }

/-- `H×n L*` from tick 0. -/
def highThenLow (n : Nat) : Trace := { segs := [(.high, n)], rest := .low }

/-- `L×n H*` from tick 0. -/
def lowThenHigh (n : Nat) : Trace := { segs := [(.low, n)], rest := .high }

/-- The outcome is a next state with a property. -/
def nextWith (o : Host.Outcome State Fault Refusal) (p : State → Bool) : Bool :=
  match o with
  | .next t => p t
  | .fault _ => false
  | .refused _ => false

def faultIs (o : Host.Outcome State Fault Refusal) (f : Fault) : Bool :=
  match o with
  | .next _ => false
  | .fault g => g == f
  | .refused _ => false

/-- The samples of a test image: a list, 0 beyond it. -/
def samplesOf (xs : List Count) : Vector Count Config.nBits := Vector.ofFn fun k => xs.getD k.val 0

/-- A state in the decoding part with a frame. -/
def withFrame (b0 b1 b2 b3 b4 : Byte) : State := { at' 13 .input highAll [] with frame := #v[b0, b1, b2, b3, b4], i := 40 }

/-! ## WellFormed refuses ill-formed terms (R73, R74) -/

theorem test_wf_dir_err_none : (Instr.dir .output .none).wf = false := by decide
theorem test_wf_wait_err_none : (Instr.wait .low 80 .none).wf = false := by decide
theorem test_wf_wait_imm_65535 : (Instr.wait .low 65535 .responseTimeout).wf = false := by decide
theorem test_wf_waitm_err_none : (Instr.waitm .high 70 .none).wf = false := by decide
theorem test_wf_waitm_imm_65535 : (Instr.waitm .high 65535 .readBitTimeout).wf = false := by decide
theorem test_wf_largest_timeout : (Instr.wait .low 65534 .responseTimeout).wf = true := by decide

/-! ## Decoding: words written out as `op a err imm` (R70), vectors T1 to T28 of 95_test_vectors.md -/

theorem test_decode_cent : decode 0b0001_0_000_0000000000000000 = .ok .cent := by decide
theorem test_decode_cext : decode 0b0010_0_000_0000000000000000 = .ok .cext := by decide
theorem test_decode_dir_output : decode 0b0011_1_001_0000000000000000 = .ok (.dir .output .invalidConfiguration) := by decide
theorem test_decode_dir_input : decode 0b0011_0_110_0000000000000000 = .ok (.dir .input .checksum) := by decide
theorem test_decode_lvl_low : decode 0b0100_0_000_0000000000000000 = .ok (.lvl .low) := by decide
theorem test_decode_lvl_high : decode 0b0100_1_000_0000000000000000 = .ok (.lvl .high) := by decide
theorem test_decode_dly : decode 0b0101_0_000_0100111000100000 = .ok (.dly 20000) := by decide
theorem test_decode_dly_largest : decode 0b0101_0_000_1111111111111111 = .ok (.dly 65535) := by decide
theorem test_decode_wait_low : decode 0b0110_0_010_0000000001010000 = .ok (.wait .low 80 .responseTimeout) := by decide
theorem test_decode_wait_high : decode 0b0110_1_011_0000000001010000 = .ok (.wait .high 80 .getReadyTimeout) := by decide
theorem test_decode_wait_start_bit : decode 0b0110_0_100_0000000000110010 = .ok (.wait .low 50 .startReadBitTimeout) := by
  decide
theorem test_decode_waitm : decode 0b0111_1_101_0000000001000110 = .ok (.waitm .high 70 .readBitTimeout) := by decide
theorem test_decode_loop : decode 0b1000_0_000_00101000_000_01001 = .ok (.loop 9 40) := by decide
theorem test_decode_dec : decode 0b1001_0_000_0000000000011110 = .ok (.dec 30) := by decide
theorem test_decode_val : decode 0b1010_0_000_0000000000000000 = .ok .val := by decide
theorem test_decode_cvt : decode 0b1011_0_000_0000000000000000 = .ok .cvt := by decide
theorem test_decode_end : decode 0b1100_0_000_0000000000000000 = .ok .endOp := by decide

theorem test_illegal_zero : decode 0x000000 = .error .reservedOp := by decide
theorem test_illegal_ops : decode 0xD00000 = .error .reservedOp ∧ decode 0xE00000 = .error .reservedOp ∧
    decode 0xF00000 = .error .reservedOp := by decide
theorem test_illegal_cent_imm : decode 0x100001 = .error .unusedFieldNotZero := by decide
theorem test_illegal_dir_err_0 : decode 0x300000 = .error .reservedErr := by decide
theorem test_illegal_dir_err_7 : decode 0x3F0000 = .error .reservedErr := by decide
theorem test_illegal_wait_imm : decode 0x62FFFF = .error .timeoutTooLarge := by decide
theorem test_illegal_loop_bit_5 : decode 0x802829 = .error .unusedFieldNotZero := by decide
theorem test_illegal_lvl_err : decode 0x490000 = .error .unusedFieldNotZero := by decide
theorem test_illegal_dly : decode 0x5FFFFF = .error .unusedFieldNotZero := by decide
theorem test_legal_largest_timeout : decode 0x62FFFE = .ok (.wait .low 65534 .responseTimeout) := by decide

/-- No word has the fixed bits of two rows of R73. -/
theorem test_rows_do_not_overlap :
    tableRows.Pairwise fun r q => r.pattern &&& (r.mask &&& q.mask) ≠ q.pattern &&& (r.mask &&& q.mask) := by decide

/-- The table's twelve mnemonics are those of the constructors. -/
theorem test_row_mnemonics : tableRows.map (·.mnemonic) =
    ["CENT", "CEXT", "DIR", "LVL", "DLY", "WAIT", "WAITM", "LOOP", "DEC", "VAL", "CVT", "END"] := by decide

theorem test_table_word : decodeTableWord 24 0x802809 = some (.loop 9 40) := by decide
theorem test_table_word_illegal : decodeTableWord 24 0x000000 = Option.none := by decide

/-! ## The textual form: the examples of R80 -/

theorem test_text_dir : (Instr.dir .output .invalidConfiguration).text = "DIR Output, InvalidConfiguration" := by decide
theorem test_text_waitm : (Instr.waitm .high 70 .readBitTimeout).text = "WAITM High, 70, ReadBitTimeout" := by decide
theorem test_text_loop : (Instr.loop 9 40).text = "LOOP 9, 40" := by decide
theorem test_text_end : Instr.endOp.text = "END" := by decide

/-! ## Reset and the fetch -/

/-- The line is released, no result stands (R39), and the outputs say so (R36). -/
theorem test_reset_ports : State.reset.ports.gpioOe = false ∧ State.reset.ports.done = false ∧
    State.reset.ports.err = 0 ∧ State.reset.valid = false ∧ State.reset.lineCond = .released := by decide

/-- A word placed after reset is what the next step runs: `DLY 40` (T7). -/
theorem test_withFetchWord : nextWith (step (State.reset.withFetchWord 24 0x500028)) (fun t => t.t == 40 && t.upc == 1) = true := by
  decide

/-- An unprogrammed word faults (T18, R78). -/
theorem test_fetch_illegal : faultIs (step (State.reset.withFetchWord 24 0)) .illegalMicroOp = true := by decide

/-- START from reset, then `CENT` at address 0 (R150, R153). -/
theorem test_start :
    nextWith (step { State.reset with inbox := [⟨0, .start 4 Env.quiet⟩] })
      (fun t => t.busy && t.pin == 4 && t.upc == 0 && nextWith (step t) (fun u => u.crit && u.upc == 1)) = true := by decide

/-- R8: another width of the pin identifier; 300 needs 9 bits. -/
theorem test_start_wide_pin :
    nextWith (step { State.reset with pinW := 9, inbox := [⟨0, .start 300 Env.quiet⟩] }) (fun t => t.pin == 300) = true := by
  decide

/-- A START that is not due yet waits, and the machine idles one step (log 2, log 3). -/
theorem test_start_later :
    nextWith (step { State.reset with inbox := [⟨1, .start 4 Env.quiet⟩] })
      (fun t => !t.busy && t.inbox == [⟨0, .start 4 Env.quiet⟩]) = true := by decide

/-! ## One micro-operation each (95_test_vectors.md) -/

/-- R153, its example. -/
theorem test_cent : nextWith (exec .cent (at' 0 .input highAll [])) (fun t => t.crit && t.upc == 1 && t.t == 0) = true := by
  decide

/-- R154, its example. -/
theorem test_cext : nextWith (exec .cext { at' 15 .input highAll [] with crit := true }) (fun t => !t.crit && t.upc == 16) = true := by
  decide

/-- T29. -/
theorem test_dir_ok : nextWith (exec (.dir .output .invalidConfiguration) (at' 1 .input highAll [.ok]))
    (fun t => t.dir == .output && t.lineCond == .driven .high && t.upc == 2 && t.t == 0 && t.err == .none) = true := by decide

/-- T32b: the second call fails. -/
theorem test_dir_configError :
    nextWith (exec (.dir .input .invalidConfiguration)
        { at' 6 .output highAll [.ok, .configError] with t := 20040, cfgLog := [⟨0, 0, .output, .ok⟩] })
      (fun t => t.dir == .output && t.out == .high && t.err == .invalidConfiguration && t.upc == 15) = true := by decide

/-- R95: the strobe of a call stands in its tick; here two micro-operations later the read of T50 is over, at the same tick, and
it does not stand any more. -/
theorem test_strobe_is_pulsed :
    nextWith (exec (.dir .output .invalidConfiguration) (at' 1 .input highAll [.configError])) (fun t =>
      t.ports.gpioDirReq == some .output && nextWith (step t) (fun u =>
        u.ports.gpioDirReq == some .output && nextWith (step u) (fun v =>
          !v.busy && v.t == 0 && v.ports.gpioDirReq == Option.none))) = true := by decide

/-- R95: the strobe does not outlast its tick. -/
theorem test_strobe_ends_with_the_tick :
    nextWith (exec (.dly 1) { at' 3 .output highAll [] with cfgLog := [⟨0, 0, .output, .ok⟩] })
      (fun t => t.ports.gpioDirReq == Option.none) = true := by decide

/-- T31. -/
theorem test_lvl : nextWith (exec (.lvl .low) (at' 2 .output highAll []))
    (fun t => t.out == .low && t.lineCond == .driven .low && t.upc == 3) = true := by decide

/-- T32. -/
theorem test_lvl_input : faultIs (exec (.lvl .high) (at' 2 .input highAll [])) .levelWriteWhileInput = true := by decide

/-- T74. -/
theorem test_dly : nextWith (exec (.dly 20000) (at' 3 .output highAll [])) (fun t => t.t == 20000 && t.e == 20000 && t.upc == 4) = true := by
  decide

/-- T75. -/
theorem test_dly_zero : nextWith (exec (.dly 0) { at' 5 .output highAll [] with t := 7, e := 9 })
    (fun t => t.t == 7 && t.e == 0 && t.upc == 6) = true := by decide

/-- T64: the target is seen at the last poll of the budget. -/
theorem test_wait_last_poll : nextWith (exec (.wait .low 80 .responseTimeout) (at' 7 .input (highThenLow 80) []))
    (fun t => t.e == 80 && t.t == 80 && t.upc == 8 && t.err == .none) = true := by decide

/-- T65 with the operation of T77: the `Low` one tick later is never polled. -/
theorem test_wait_timeout : nextWith (exec (.wait .low 80 .responseTimeout) (at' 7 .input (highThenLow 81) []))
    (fun t => t.e == 81 && t.t == 81 && t.upc == 15 && t.err == .responseTimeout) = true := by decide

/-- T78, the wait beginning at tick 0. -/
theorem test_waitm : nextWith (exec (.waitm .high 70 .readBitTimeout) { at' 10 .input (lowThenHigh 60) [] with i := 3 })
    (fun t => t.samples[3] == 60 && t.e == 60 && t.t == 60 && t.upc == 11) = true := by decide

/-- T81. -/
theorem test_waitm_index : faultIs (exec (.waitm .high 70 .readBitTimeout) { at' 10 .input highAll [] with i := 40 })
    .sampleIndexOutOfRange = true := by decide

/-- R155, its first example. -/
theorem test_loop_back : nextWith (exec (.loop 9 40) (at' 11 .input highAll [])) (fun t => t.i == 1 && t.upc == 9) = true := by
  decide

/-- R155, its second example. -/
theorem test_loop_through : nextWith (exec (.loop 9 40) { at' 11 .input highAll [] with i := 39 })
    (fun t => t.i == 40 && t.upc == 12) = true := by decide

/-- T95 in the first byte, T93 in the second, T94 in the last. -/
theorem test_dec : nextWith (exec (.dec 30) { at' 12 .input highAll [] with
      samples := samplesOf ([0, 30, 31, 65535, 1, 29, 32, 70] ++ [31, 30, 30, 30, 30, 30, 30, 30] ++
        List.replicate 23 30 ++ [31]) })
    (fun t => t.frame == #v[0x33, 0x80, 0x00, 0x00, 0x01] && t.upc == 13) = true := by decide

/-- T96: at the threshold every bit is 0. -/
theorem test_dec_at_threshold : nextWith (exec (.dec 30) { at' 12 .input highAll [] with samples := Vector.replicate 40 30 })
    (fun t => t.frame == Vector.replicate 5 0) = true := by decide

/-- T36: the sum wraps. -/
theorem test_val_match : nextWith (exec .val (withFrame 0xFF 0xFF 0xFF 0xFF 0xFC))
    (fun t => t.err == .none && t.upc == 14) = true := by decide

/-- T34: the mismatch is recorded and does not abort; D35: `CHK` is copied all the same. -/
theorem test_val_mismatch : nextWith (exec .val (withFrame 0x32 0x00 0x15 0x05 0x4D))
    (fun t => t.err == .checksum && t.upc == 14 && t.chk == 0x4D) = true := by decide

/-- R135, its example (V1). -/
theorem test_cvt : nextWith (exec .cvt { withFrame 0x32 0x00 0x15 0x05 0x4C with upc := 14 })
    (fun t => t.hum == 500 && t.tmp == 215 && t.chk == 0x4C && t.upc == 15) = true := by decide

/-- R134: the greatest value fits. -/
theorem test_cvt_greatest : nextWith (exec .cvt (withFrame 0xFF 0xFF 0x00 0xFF 0x00))
    (fun t => t.hum == 2805 && t.tmp == 255) = true := by decide

/-- R156, its example. -/
theorem test_end : nextWith (exec .endOp (at' 16 .input highAll [])) (fun t => !t.busy && t.done && t.upc == 0) = true := by
  decide

/-- T59e: a fall-through from address 31 does not wrap; the next fetch faults. -/
theorem test_upc_overflow : nextWith (exec (.dly 0) (at' 31 .input highAll [])) (fun t => faultIs (step t) .upcOverflow) = true := by
  decide

/-! ## Witnesses: Sequencer -/

theorem witness_CentEntersTheCriticalSection : (at' 30 .input highAll []).upc ≠ 31 := by decide
theorem witness_CextLeavesTheCriticalSection : (at' 15 .input highAll []).upc ≠ 31 := by decide

theorem witness_LoopCountsAndBranches :
    ({ at' 11 .input highAll [] with i := 63 }).i.toNat = 63 ∧
    (({ at' 11 .input highAll [] with i := 62 }).i.toNat < 63 ∧
      ({ at' 11 .input highAll [] with i := 62 }).i.toNat + 1 < (64 : BitVec 8).toNat) ∧
    (({ at' 11 .input highAll [] with i := 62 }).i.toNat < 63 ∧
      (63 : BitVec 8).toNat ≤ ({ at' 11 .input highAll [] with i := 62 }).i.toNat + 1 ∧
      (at' 11 .input highAll []).upc ≠ 31) := by decide

theorem witness_UpcGoesOnToATargetOrToTheEpilogue :
    (at' 30 .input highAll []).upc ≠ 31 ∧ exec .cent (at' 30 .input highAll []) =
      .next { at' 31 .input highAll [] with crit := true } := ⟨by decide, rfl⟩

theorem witness_FallThroughFrom31FaultsAtTheNextFetch :
    (at' 31 .input highAll []).upc = 31 ∧
    exec .cent (at' 31 .input highAll []) = .next { at' 31 .input highAll [] with crit := true, upcOver := true } ∧
    ({ at' 31 .input highAll [] with crit := true, upcOver := true }).busy = true ∧
    dueMove { at' 31 .input highAll [] with crit := true, upcOver := true } = Option.none := ⟨rfl, rfl, rfl, rfl⟩

theorem witness_EffectDoesNotDependOnTheAddress :
    exec .cext { at' 15 .input highAll [] with crit := true } = .next (at' 16 .input highAll []) := rfl

/-! ## Witnesses: Line Controller -/

theorem witness_DirAppliesTheDirectionOrAborts :
    ErrorKind.invalidConfiguration.isError = true ∧ ErrorKind.checksum.isError = true ∧
    ((at' 1 .input highAll [.ok]).env.cfgAt (at' 1 .input highAll [.ok]).cfgLog.length = .ok ∧
      (at' 1 .input highAll [.ok]).upc ≠ 31) ∧
    (at' 1 .input highAll [.configError]).env.cfgAt (at' 1 .input highAll [.configError]).cfgLog.length = .configError := by
  decide

theorem witness_LvlDrivesTheLine :
    ((at' 2 .output highAll []).dir = .output ∧ (at' 2 .output highAll []).upc ≠ 31) ∧
    (at' 2 .input highAll []).dir = .input := by decide

theorem witness_ConfigureIsCalledByDirAloneWithThePin :
    (∃ t, exec (.dir .output .invalidConfiguration) (at' 1 .input highAll [.ok]) = .next t) ∧
    (∃ t, exec .cent (at' 0 .input highAll []) = .next t ∧ ∀ a e, Instr.cent ≠ .dir a e) :=
  ⟨⟨_, rfl⟩, _, rfl, fun _ _ => nofun⟩

/-- After the first `DIR` of a read, at the same tick. -/
def calledState : State := { at' 2 .output highAll [] with cfgLog := [⟨0, 0, .output, .ok⟩] }

theorem calledState_calls : CallsInThePast calledState := by unfold CallsInThePast; decide

theorem witness_ConfigureStrobeIsPulsed :
    CallsInThePast (at' 1 .input highAll [.ok]) ∧ (at' 1 .input highAll [.ok]).busy = true ∧
    (∃ t, exec (.dir .output .invalidConfiguration) (at' 1 .input highAll [.ok]) = .next t) ∧
    CallsInThePast calledState ∧ calledState.dirReq = some .output ∧
    (∃ t, exec (.lvl .low) calledState = .next t ∧ t.busy = true ∧ t.t = calledState.t) ∧
    (∃ t, exec (.dly 1) calledState = .next t ∧ calledState.t < t.t) ∧
    (∃ t, exec .endOp calledState = .next t ∧ t.busy = false) :=
  ⟨(fun _ h => nomatch h), rfl, ⟨_, rfl⟩, calledState_calls, rfl, ⟨_, rfl, rfl, rfl⟩, ⟨_, rfl, by decide⟩, _, rfl, rfl⟩

theorem witness_StepKeepsCallsInThePast : CallsInThePast calledState ∧ ∃ t, step calledState = .next t :=
  ⟨calledState_calls, _, rfl⟩

/-- A record with a change in it, kept by a step that makes another one. -/
def pulseState : State :=
  { at' 4 .output highAll [] with out := .low, t := 20000, crit := true, lineLog := [(0, .driven .low)] }

theorem witness_StepKeepsTheLineRecord : LineRecordInv pulseState ∧ ∃ t, step pulseState = .next t :=
  ⟨⟨rfl, by decide, by decide, ⟨by decide, trivial⟩⟩, _, rfl⟩

/-- A state in which a START is due. -/
def startable (env : Env) : State := { State.reset with inbox := [⟨0, .start 4 env⟩] }

theorem witness_StartPulseIsOnTheLine :
    (startable Env.quiet).rom = canonicalRom Config.defaults ∧ (startable Env.quiet).busy = false ∧
    (startable Env.quiet).inbox = [⟨0, .start 4 Env.quiet⟩] ∧ (startable Env.quiet).lineCond ≠ .driven .low ∧
    Env.quiet.cfgAt 0 = .ok ∧ Env.quiet.cfgAt 1 = .ok := ⟨rfl, by decide⟩

/-! ## Witnesses: Timing Engine -/

theorem witness_DlyLetsItsTicksPass : (at' 30 .output highAll []).upc ≠ 31 := by decide

/-- T64 and T65: the last tick of the budget and the one after it. -/
theorem seen_at_80 : SeenAfter (highThenLow 80) 0 .low 80 80 := by unfold SeenAfter; decide
theorem never_in_80 : NeverSeen (highThenLow 81) 0 .low 80 := by
  intro k hk
  have h : ∀ k, k < 81 → (highThenLow 81).levelAt (0 + k) ≠ .low := by decide
  exact h k (by omega)

theorem witness_WaitForLevelAnswersByTheLine :
    timeoutAllowed 80 = true ∧ timeoutAllowed 65534 = true ∧ (at' 7 .input (highThenLow 80) []).dir = .input ∧
    (∃ t, waitForLevel .low 80 (at' 7 .input (highThenLow 80) []) = .ok (.ok 80, t)) ∧
    (∃ t, waitForLevel .low 80 (at' 7 .input (highThenLow 81) []) = .ok (.timeout, t)) ∧
    (∀ k, k < 81 → (highThenLow 90).levelAt (0 + k) = (highThenLow 81).levelAt (0 + k)) :=
  ⟨by decide, by decide, rfl, ⟨_, rfl⟩, ⟨_, rfl⟩, by decide⟩

theorem witness_WaitSeesItsLevelOrAborts :
    ErrorKind.responseTimeout.isError = true ∧ timeoutAllowed 80 = true ∧ (at' 7 .input (highThenLow 80) []).dir = .input ∧
    (SeenAfter (at' 7 .input (highThenLow 80) []).env.lin 0 .low 80 80 ∧ (at' 7 .input (highThenLow 80) []).upc ≠ 31) ∧
    NeverSeen (at' 7 .input (highThenLow 81) []).env.lin 0 .low 80 :=
  ⟨rfl, by decide, rfl, ⟨seen_at_80, by decide⟩, never_in_80⟩

theorem witness_WaitmRecordsTheElapsedCount :
    ErrorKind.readBitTimeout.isError = true ∧ timeoutAllowed 80 = true ∧ (at' 10 .input (highThenLow 80) []).dir = .input ∧
    (SeenAfter (at' 10 .input (highThenLow 80) []).env.lin 0 .low 80 80 ∧ (at' 10 .input (highThenLow 80) []).upc ≠ 31 ∧
      ({ at' 10 .input (highThenLow 80) [] with i := 39 }).i.toNat < 40 ∧
      40 ≤ ({ at' 10 .input (highThenLow 80) [] with i := 40 }).i.toNat) ∧
    NeverSeen (at' 10 .input (highThenLow 81) []).env.lin 0 .low 80 :=
  ⟨rfl, by decide, rfl, ⟨seen_at_80, by decide⟩, never_in_80⟩

theorem witness_LineIsReadWhileInputOnly :
    (at' 7 .input highAll []).dir = .input ∧ (at' 7 .output highAll []).dir = .output := by decide

theorem witness_OnlyDelaysAndWaitsTakeTicks :
    ((Instr.dly 65535).wf = true ∧ ∃ t, exec (.dly 65535) (at' 3 .output highAll []) = .next t) ∧
    ((Instr.wait .low 80 .responseTimeout).wf = true ∧
      NeverSeen (at' 7 .input (highThenLow 81) []).env.lin 0 .low 80 ∧
      ∃ t, exec (.wait .low 80 .responseTimeout) (at' 7 .input (highThenLow 81) []) = .next t) ∧
    ((Instr.waitm .low 80 .responseTimeout).wf = true ∧
      SeenAfter (at' 7 .input (highThenLow 80) []).env.lin 0 .low 80 80 ∧
      ∃ t, exec (.waitm .low 80 .responseTimeout) (at' 7 .input (highThenLow 80) []) = .next t) ∧
    (Instr.cent.wf = true ∧ ∃ t, exec .cent (at' 0 .input highAll []) = .next t) :=
  ⟨⟨rfl, _, rfl⟩, ⟨rfl, never_in_80, _, rfl⟩, ⟨rfl, seen_at_80, _, rfl⟩, rfl, _, rfl⟩

/-! ## Witnesses: Frame Decoder -/

theorem witness_DecPacksTheClassifiedSamples :
    (at' 12 .input highAll []).upc ≠ 31 ∧
    8 * (4 : Fin Config.nBytes).val + (7 : Fin 8).val < Config.nBits := by decide

theorem witness_ValReportsAMismatch : (withFrame 0x32 0x00 0x15 0x05 0x4D).upc ≠ 31 := by decide
theorem witness_CvtProducesTheMeasurement : (withFrame 0xFF 0xFF 0xFF 0xFF 0xFC).upc ≠ 31 := by decide

theorem witness_DecodingIsAFunctionOfTheSamples :
    (at' 12 .input highAll []).samples = (withFrame 1 2 3 4 5).samples ∧ (at' 12 .input highAll []).err = .none ∧
    (withFrame 1 2 3 4 5).err = .none ∧ (at' 12 .input highAll []).frame ≠ (withFrame 1 2 3 4 5).frame := by decide

/-! ## Witnesses: errors and registers -/

theorem witness_ErrChangesByAbortOrValOnly :
    (∃ t, exec (.wait .low 80 .responseTimeout) (at' 7 .input (highThenLow 81) []) = .next t ∧
      t.err ≠ (at' 7 .input (highThenLow 81) []).err) ∧
    (∃ t, exec .val (withFrame 0x32 0x00 0x15 0x05 0x4D) = .next t ∧ t.err ≠ (withFrame 0x32 0x00 0x15 0x05 0x4D).err) :=
  ⟨⟨_, rfl, by decide⟩, _, rfl, by decide⟩

/-- One micro-operation for each register that changes. -/
theorem witness_RegistersChangeByTheirWritersOnly :
    nextWith (exec (.dly 40) (at' 3 .output highAll [])) (fun t => t.e != 0) = true ∧
    nextWith (exec (.loop 9 40) (at' 11 .input highAll [])) (fun t => t.i != 0) = true ∧
    nextWith (exec .endOp (at' 16 .input highAll [])) (fun t => !t.busy && t.done) = true ∧
    nextWith (exec .cent (at' 0 .input highAll [])) (fun t => t.crit) = true ∧
    nextWith (exec (.dir .output .invalidConfiguration) (at' 1 .input highAll [])) (fun t => t.dir == .output) = true ∧
    nextWith (exec (.lvl .low) (at' 2 .output highAll [])) (fun t => t.out == .low) = true ∧
    nextWith (exec (.waitm .high 70 .readBitTimeout) (at' 10 .input (lowThenHigh 60) [])) (fun t => t.samples[0] == 60) = true ∧
    nextWith (exec (.dec 30) { at' 12 .input highAll [] with samples := Vector.replicate 40 31 })
      (fun t => t.frame[0] == 0xFF) = true ∧
    nextWith (exec .cvt (withFrame 0x32 0x00 0x15 0x05 0x4C)) (fun t => t.hum == 500) = true := by decide

/-! ## Witnesses: the step and the host -/

theorem witness_StepRunsTheDecodedMicroOperation :
    ((at' 16 .input highAll []).busy = true ∧ (at' 16 .input highAll []).upcOver = false ∧
      dueMove (at' 16 .input highAll []) = Option.none ∧ (at' 16 .input highAll []).inbox = [] ∧
      decode (romWord (at' 16 .input highAll []).rom (at' 16 .input highAll []).upc) = .ok .endOp) ∧
    decode (romWord (at' 17 .input highAll []).rom (at' 17 .input highAll []).upc) = .error .reservedOp := by decide

theorem witness_IllegalWordsAreRejected :
    (at' 17 .input highAll []).busy = true ∧ (at' 17 .input highAll []).upcOver = false ∧
    dueMove (at' 17 .input highAll []) = Option.none ∧
    illegalWord (romWord (at' 17 .input highAll []).rom (at' 17 .input highAll []).upc) ∧ (16 : Addr).toNat ≤ 16 :=
  ⟨rfl, rfl, rfl, .inl (by decide), by decide⟩

theorem witness_IdleStaysIdle : State.reset.busy = false ∧ State.reset.inbox = [] := by decide

theorem witness_StepKeepsPinInItsWidth :
    PinFits { startable Env.quiet with pinW := 3, pin := 7 } ∧
    ∃ t, step { startable Env.quiet with pinW := 3, pin := 7 } = .next t ∧ t.pin ≠ 7 :=
  ⟨by unfold PinFits; decide, _, rfl, by decide⟩

theorem witness_StartBeginsARead :
    (startable Env.quiet).busy = false ∧ 255 < 2 ^ (startable Env.quiet).pinW ∧ (startable Env.quiet).inbox = ⟨0, .start 4 Env.quiet⟩ :: [] := by decide

theorem witness_StartWhileBusyIsRefused :
    ({ startable Env.quiet with busy := true }).busy = true ∧
    ({ startable Env.quiet with busy := true }).inbox = ⟨0, .start 4 Env.quiet⟩ :: [] := by decide

theorem witness_PreemptionOfAReadIsRefused :
    ({ at' 3 .output highAll [] with inbox := [⟨0, .preempt⟩] }).inbox = ⟨0, .preempt⟩ :: [] ∧
    (at' 3 .output highAll []).busy = true ∧
    ({ State.reset with inbox := [⟨0, .preempt⟩] }).inbox = ⟨0, .preempt⟩ :: [] ∧ State.reset.busy = false := by decide

theorem witness_RstGivesTheResetValues :
    ({ at' 3 .output highAll [] with inbox := [⟨0, .rst⟩] }).inbox = ⟨0, .rst⟩ :: [] := by decide

theorem witness_MeasurementStaysUntilTheNextStart :
    ({ State.reset with done := true, hum := 500 }).busy = false ∧
    ({ State.reset with done := true, hum := 500 }).done = true ∧
    step { State.reset with done := true, hum := 500 } = .next { State.reset with done := true, hum := 500 } :=
  ⟨rfl, rfl, rfl⟩

theorem witness_RomIsNeverWritten : step State.reset = .next State.reset := rfl

/-! ## Witnesses: encoding -/

theorem witness_DecodeOfEncode :
    (Instr.dir .output .checksum).wf = true ∧ (Instr.wait .low 65534 .invalidConfiguration).wf = true ∧
    (Instr.waitm .high 65534 .checksum).wf = true ∧ (Instr.loop 31 255).wf = true ∧ (Instr.dly 65535).wf = true := by decide

theorem witness_EncodeOfDecode :
    decode 0x62FFFE = .ok (.wait .low 65534 .responseTimeout) ∧ decode 0x80FF1F = .ok (.loop 31 255) := by decide

/-- A word for every row of R73, at the edge of its constraint. -/
theorem witness_DecodingFollowsMatchAndMask :
    List.Forall₂ (fun (r : TableRow) (w : UWord) => r.covers w ∧ ∃ i, decode w = .ok i) tableRows
      [0x100000, 0x200000, 0x3E0000, 0x480000, 0x50FFFF, 0x61FFFE, 0x7EFFFE, 0x80FF1F, 0x90FFFF, 0xA00000, 0xB00000,
       0xC00000] := by
  unfold tableRows TableRow.covers
  repeat' first | exact .nil | refine .cons ⟨by decide, _, rfl⟩ ?_

theorem witness_CanonicalImage : (4 : Addr).toNat ∉ [3, 5, 7, 8, 9, 10, 12] ∧ (31 : Addr).toNat ∉ [3, 5, 7, 8, 9, 10, 12] := by
  decide

/-! ## Witnesses: the canonical micro-program -/

/-- In the bit loop, with three samples taken, about to measure the fourth. -/
def sampling : State :=
  { at' 10 .input (lowThenHigh 20500) [] with
    e := 30, i := 3, crit := true, t := 20450, samples := samplesOf [20, 60, 70] }

theorem sampling_inv : CanonicalInv sampling := by
  constructor <;> first | rfl | decide

theorem sampling_step : nextWith (step sampling) (fun t => t.busy && t.samples[3] == 50 && t.upc == 11) = true := by decide

theorem witness_StepKeepsTheCanonicalInvariant : CanonicalInv sampling ∧ ∃ t, step sampling = .next t :=
  ⟨sampling_inv, _, rfl⟩

theorem witness_CanonicalProgramNeverFaults : CanonicalInv sampling := sampling_inv

theorem witness_PhaseNeverDecreasesDuringARead :
    CanonicalInv sampling ∧ sampling.busy = true ∧ dueMove sampling = Option.none ∧
    ∃ t, step sampling = .next t ∧ t.busy = true := ⟨sampling_inv, rfl, rfl, _, rfl, rfl⟩

/-- At the epilogue after a timeout of the bit loop. -/
def aborted : State :=
  { at' 15 .input lowAll [] with
    e := 71, i := 3, crit := true, t := 20521, samples := samplesOf [20, 60, 70], err := .readBitTimeout }

theorem witness_EpilogueEndsTheRead :
    CanonicalInv aborted ∧ aborted.busy = true ∧ aborted.upc = 15 ∧ aborted.inbox = [] :=
  ⟨by constructor <;> first | rfl | decide, rfl, rfl, rfl⟩

theorem witness_CanonicalReadEnds :
    (startable Env.quiet).rom = canonicalRom Config.defaults ∧ (startable Env.quiet).busy = false ∧
    (startable Env.quiet).inbox = [⟨0, .start 4 Env.quiet⟩] := ⟨rfl, rfl, rfl⟩

/-- The largest timeout the ROM can hold, a zero delay and the spec's defaults elsewhere. -/
def edgeParams : Config.Params := { Config.defaults with startLowUs := 0, responseTimeoutUs := 65534 }

theorem witness_CanonicalReadIsTheReadFunction :
    edgeParams.wf = true ∧ Config.defaults.wf = true ∧
    ({ startable Env.quiet with rom := canonicalRom edgeParams }).rom = canonicalRom edgeParams ∧
    ({ startable Env.quiet with rom := canonicalRom edgeParams }).busy = false ∧
    ({ startable Env.quiet with rom := canonicalRom edgeParams }).inbox = [⟨0, .start 4 Env.quiet⟩] :=
  ⟨by decide, by decide, rfl, rfl, rfl⟩

/-- The exception of R104: the first call answers `Ok`, the second `ConfigError`. -/
def secondFails : Env := { Env.quiet with cfg := [.ok, .configError] }

theorem witness_PinIsRestoredAtTheEnd :
    Config.defaults.wf = true ∧ (startable secondFails).rom = canonicalRom Config.defaults ∧
    (startable secondFails).busy = false ∧ (startable secondFails).inbox = [⟨0, .start 4 secondFails⟩] ∧
    (startable secondFails).dir = .input ∧ secondFails.cfgAt 0 = .ok ∧ secondFails.cfgAt 1 = .configError :=
  ⟨by decide, rfl, rfl, rfl, rfl, rfl, rfl⟩

end Sys2Proof.Tests
end

section
/-! The width of `PIN` (00_scope.md R8, 10_state.md R28; log 16). -/

namespace Sys2Proof.Machine

@[simp] theorem State.reset_pin : State.reset.pin = 0 := rfl

@[simp] theorem State.reset_pinW : State.reset.pinW = 8 := rfl

/-- Why the value log 6 chooses for `PIN` at reset is safe: it fits an instance of any width. -/
theorem PinFits.of_pin_eq_zero {s : State} (h : s.pin = 0) : PinFits s := by
  unfold PinFits
  rw [h]
  exact Nat.two_pow_pos s.pinW

/-- Settles O34: reset leaves 0 in `PIN` (log 6), which fits every width, and `PIN_W` is the default of R8. -/
theorem pinFitsAtReset : Obligations.PinFitsAtReset :=
  ⟨PinFits.of_pin_eq_zero State.reset_pin, State.reset_pinW⟩

end Sys2Proof.Machine
end

section
/-! Where a micro-operation goes, what it writes and what it leaves alone (10_state.md R15, R19, R25, R28, R36). -/

namespace Sys2Proof.Machine

variable {i : Instr} {s t : State}

/-! ## Where a micro-operation goes -/

/-- The micro-operation carries the error `e` for an abort (R73). -/
def Carries (i : Instr) (e : ErrorKind) : Prop :=
  (∃ a, i = .dir a e) ∨ (∃ a n, i = .wait a n e) ∨ (∃ a n, i = .waitm a n e)

/-- The ways a micro-operation leaves the sequencer: it falls through, its `LOOP` is taken, it aborts, or the read ends.
`ERR` is written by the abort, with the error carried, and by a `VAL` that falls through. -/
inductive LeavesTo (i : Instr) (s t : State) : Prop
  | fallThrough (hi : i ≠ .endOp) (hupc : t.upc = (advance s).upc) (hover : t.upcOver = (advance s).upcOver)
      (herr : t.err = s.err ∨ (i = .val ∧ t.err = .checksum))
  | target {tgt : Addr} {cnt : BitVec 8} (hi : i = .loop tgt cnt) (hupc : t.upc = tgt) (hover : t.upcOver = false)
      (herr : t.err = s.err)
  | aborts (hi : Carries i t.err) (hupc : t.upc = 15) (hover : t.upcOver = false)
  | ends (hi : i = .endOp) (hupc : t.upc = 0) (hover : t.upcOver = false) (herr : t.err = s.err)

theorem valError_cases (frame : Vector Byte Config.nBytes) (err : ErrorKind) :
    valError frame err = err ∨ valError frame err = .checksum := by
  unfold valError
  split
  · exact .inl rfl
  · exact .inr rfl

theorem exec_leavesTo (h : exec i s = .next t) : LeavesTo i s t := by
  cases i with
  | cent => obtain rfl := execCent_cases h; exact .fallThrough nofun rfl rfl (.inl rfl)
  | cext => obtain rfl := execCext_cases h; exact .fallThrough nofun rfl rfl (.inl rfl)
  | dir a x =>
    obtain ⟨-, rfl⟩ | ⟨-, rfl⟩ := execDir_cases h
    · exact .fallThrough nofun rfl rfl (.inl rfl)
    · exact .aborts (.inl ⟨a, rfl⟩) rfl rfl
  | lvl a => obtain ⟨-, rfl⟩ := execLvl_cases h; exact .fallThrough nofun rfl rfl (.inl rfl)
  | dly n => obtain rfl := execDly_cases h; exact .fallThrough nofun rfl rfl (.inl rfl)
  | wait a n x =>
    obtain ⟨-, ⟨k, -, rfl⟩ | ⟨-, rfl⟩⟩ := execWait_cases h
    · exact .fallThrough nofun rfl rfl (.inl rfl)
    · exact .aborts (.inr (.inl ⟨a, n, rfl⟩)) rfl rfl
  | waitm a n x =>
    obtain ⟨-, ⟨k, hi, -, rfl⟩ | ⟨-, rfl⟩⟩ := execWaitm_cases h
    · exact .fallThrough nofun rfl rfl (.inl rfl)
    · exact .aborts (.inr (.inr ⟨a, n, rfl⟩)) rfl rfl
  | loop tgt cnt =>
    obtain ⟨-, ⟨-, rfl⟩ | ⟨-, rfl⟩⟩ := execLoop_cases h
    · exact .target rfl rfl rfl rfl
    · exact .fallThrough nofun rfl rfl (.inl rfl)
  | dec thr => obtain rfl := execDec_cases h; exact .fallThrough nofun rfl rfl (.inl rfl)
  | val =>
    obtain rfl := execVal_cases h
    exact .fallThrough nofun rfl rfl ((valError_cases s.frame s.err).imp_right fun hc => ⟨rfl, hc⟩)
  | cvt => obtain rfl := execCvt_cases h; exact .fallThrough nofun rfl rfl (.inl rfl)
  | endOp => obtain rfl := execEnd_cases h; exact .ends rfl rfl rfl rfl

/-- Settles O5: below address 31 the fall-through is `UPC + 1`. -/
theorem upcGoesOnToATargetOrToTheEpilogue : Obligations.UpcGoesOnToATargetOrToTheEpilogue := by
  intro i s t h31 h
  cases exec_leavesTo h with
  | fallThrough hi hupc hover _ =>
    rw [advance_eq_upcPlusOne h31] at hupc hover
    exact ⟨hover, .inl ⟨hupc, hi⟩⟩
  | target hi hupc hover _ => exact ⟨hover, .inr (.inl ⟨_, _, hi, hupc⟩)⟩
  | aborts hi hupc hover => exact ⟨hover, .inr (.inr (.inl ⟨_, hupc, rfl, hi⟩))⟩
  | ends hi hupc hover _ => exact ⟨hover, .inr (.inr (.inr ⟨hi, hupc⟩))⟩

/-- The fetch past address 31 (R19). -/
theorem step_of_upcOver (ho : s.upcOver = true) (hb : s.busy = true) (hm : dueMove s = Option.none) :
    step s = .fault .upcOverflow := by
  simp [step, hm, sequencerStep, hb, fetch, ho]

/-- Settles O6: from address 31 the fall-through stays there with the flag of log 10 set. -/
theorem fallThroughFrom31FaultsAtTheNextFetch : Obligations.FallThroughFrom31FaultsAtTheNextFetch := by
  intro i s t h31 h
  cases exec_leavesTo h with
  | fallThrough _ hupc hover _ =>
    rw [advance_at_31 h31] at hupc hover
    exact .inl ⟨hover, hupc, step_of_upcOver hover⟩
  | target hi hupc hover _ => exact .inr ⟨hover, .inl ⟨_, _, hi, hupc⟩⟩
  | aborts hi hupc hover => exact .inr ⟨hover, .inr (.inl ⟨_, hupc, rfl, hi⟩)⟩
  | ends hi hupc hover _ => exact .inr ⟨hover, .inr (.inr ⟨hi, hupc⟩)⟩

/-- Settles O28: of the ways a micro-operation leaves, only an abort and the fall-through of `VAL` write `ERR`. -/
theorem errChangesByAbortOrValOnly : Obligations.ErrChangesByAbortOrValOnly := by
  intro i s t h hne
  cases exec_leavesTo h with
  | fallThrough _ _ _ herr => exact .inr (herr.resolve_left hne)
  | target _ _ _ herr => exact absurd herr hne
  | aborts hi hupc _ => exact .inl ⟨hupc, hi⟩
  | ends _ _ _ herr => exact absurd herr hne

/-- Settles O7: no branch of a meaning looks at `UPC`, so the micro-operation takes the same branch at the other address. -/
theorem effectDoesNotDependOnTheAddress : Obligations.EffectDoesNotDependOnTheAddress := by
  intro i s t a past h
  cases i with
  | cent => obtain rfl := execCent_cases h; exact ⟨_, rfl, rfl⟩
  | cext => obtain rfl := execCext_cases h; exact ⟨_, rfl, rfl⟩
  | dir _ _ =>
    obtain ⟨hc, rfl⟩ | ⟨hc, rfl⟩ := execDir_cases h
    · exact ⟨_, exec_dir_of_ok hc, rfl⟩
    · exact ⟨_, exec_dir_of_configError hc, rfl⟩
  | lvl _ => obtain ⟨hd, rfl⟩ := execLvl_cases h; exact ⟨_, exec_lvl_of_output hd, rfl⟩
  | dly _ => obtain rfl := execDly_cases h; exact ⟨_, rfl, rfl⟩
  | wait _ _ _ =>
    obtain ⟨hd, ⟨k, hk, rfl⟩ | ⟨hn, rfl⟩⟩ := execWait_cases h
    · exact ⟨_, exec_wait_of_seen hd hk, rfl⟩
    · exact ⟨_, exec_wait_of_never hd hn, rfl⟩
  | waitm _ _ _ =>
    obtain ⟨hd, ⟨k, hi, hk, rfl⟩ | ⟨hn, rfl⟩⟩ := execWaitm_cases h
    · exact ⟨_, exec_waitm_of_seen (s := { s with upc := a, upcOver := past }) hd hk hi, rfl⟩
    · exact ⟨_, exec_waitm_of_never hd hn, rfl⟩
  | loop _ _ =>
    obtain ⟨h63, ⟨hlt, rfl⟩ | ⟨hge, rfl⟩⟩ := execLoop_cases h
    · exact ⟨_, exec_loop_back h63.ne hlt, rfl⟩
    · exact ⟨_, exec_loop_through h63.ne hge, rfl⟩
  | dec _ => obtain rfl := execDec_cases h; exact ⟨_, rfl, rfl⟩
  | val => obtain rfl := execVal_cases h; exact ⟨_, rfl, rfl⟩
  | cvt => obtain rfl := execCvt_cases h; exact ⟨_, rfl, rfl⟩
  | endOp => obtain rfl := execEnd_cases h; exact ⟨_, rfl, rfl⟩

/-! ## Which registers a micro-operation writes -/

/-- Settles O29: the writes of each micro-operation, by the laws of the updates its meaning is made of. -/
theorem registersChangeByTheirWritersOnly : Obligations.RegistersChangeByTheirWritersOnly := by
  intro i s t h
  cases i with
  | cent => obtain rfl := execCent_cases h; simp
  | cext => obtain rfl := execCext_cases h; simp
  | dir _ _ => obtain ⟨-, rfl⟩ | ⟨-, rfl⟩ := execDir_cases h <;> simp
  | lvl _ => obtain ⟨-, rfl⟩ := execLvl_cases h; simp
  | dly _ => obtain rfl := execDly_cases h; simp
  | wait _ _ _ => obtain ⟨-, ⟨_, -, rfl⟩ | ⟨-, rfl⟩⟩ := execWait_cases h <;> simp
  | waitm _ _ _ => obtain ⟨-, ⟨_, _, -, rfl⟩ | ⟨-, rfl⟩⟩ := execWaitm_cases h <;> simp
  | loop _ _ => obtain ⟨-, ⟨-, rfl⟩ | ⟨-, rfl⟩⟩ := execLoop_cases h <;> simp
  | dec _ => obtain rfl := execDec_cases h; simp
  | val => obtain rfl := execVal_cases h; simp
  | cvt => obtain rfl := execCvt_cases h; simp
  | endOp => obtain rfl := execEnd_cases h; simp

/-- `PIN` and `PIN_W` are written by no micro-operation (R28; log 16). -/
theorem exec_pin (h : exec i s = .next t) : t.pin = s.pin ∧ t.pinW = s.pinW := by
  obtain ⟨-, -, -, -, -, -, -, -, -, -, hpin, hpinW, -⟩ := registersChangeByTheirWritersOnly i s t h
  exact ⟨hpin, hpinW⟩

/-- A read goes on through every micro-operation but `END`. -/
theorem exec_busy (h : exec i s = .next t) (hi : i ≠ .endOp) : t.busy = s.busy := by
  obtain ⟨-, -, hbusy, -⟩ := registersChangeByTheirWritersOnly i s t h
  exact of_not_not fun hne => hi (hbusy (.inl hne))

/-! ## The log of `Configure` calls -/

theorem exec_dir_cfgLog {a : Direction} {x : ErrorKind} (h : exec (.dir a x) s = .next t) :
    t.cfgLog = ⟨s.t, s.pin, a, s.env.cfgAt s.cfgLog.length⟩ :: s.cfgLog := by
  obtain ⟨hc, rfl⟩ | ⟨hc, rfl⟩ := execDir_cases h <;> simp [hc]

theorem exec_dir_t {a : Direction} {x : ErrorKind} (h : exec (.dir a x) s = .next t) : t.t = s.t := by
  obtain ⟨-, rfl⟩ | ⟨-, rfl⟩ := execDir_cases h <;> rfl

theorem exec_cfgLog_of_ne_dir (h : exec i s = .next t) (hi : ∀ a e, i ≠ .dir a e) : t.cfgLog = s.cfgLog := by
  cases i with
  | cent => obtain rfl := execCent_cases h; rfl
  | cext => obtain rfl := execCext_cases h; rfl
  | dir a e => exact absurd rfl (hi a e)
  | lvl _ => obtain ⟨-, rfl⟩ := execLvl_cases h; rfl
  | dly _ => obtain rfl := execDly_cases h; rfl
  | wait _ _ _ => obtain ⟨-, ⟨_, -, rfl⟩ | ⟨-, rfl⟩⟩ := execWait_cases h <;> rfl
  | waitm _ _ _ => obtain ⟨-, ⟨_, _, -, rfl⟩ | ⟨-, rfl⟩⟩ := execWaitm_cases h <;> rfl
  | loop _ _ => obtain ⟨-, ⟨-, rfl⟩ | ⟨-, rfl⟩⟩ := execLoop_cases h <;> rfl
  | dec _ => obtain rfl := execDec_cases h; rfl
  | val => obtain rfl := execVal_cases h; rfl
  | cvt => obtain rfl := execCvt_cases h; rfl
  | endOp => obtain rfl := execEnd_cases h; rfl

/-- Settles O10: the call that `DIR` enters in the log, and the log left alone by the others. -/
theorem configureIsCalledByDirAloneWithThePin : Obligations.ConfigureIsCalledByDirAloneWithThePin := by
  intro i s t h
  refine ⟨?_, exec_cfgLog_of_ne_dir h⟩
  rintro a e rfl
  exact exec_dir_cfgLog h

/-- The strobe of a `DIR` of a read in progress (R95): its call is the last, at the present tick. -/
theorem exec_dir_dirReq {a : Direction} {x : ErrorKind} (h : exec (.dir a x) s = .next t) (hb : s.busy = true) :
    t.dirReq = some a := by
  rw [dirReq_of_cons (exec_dir_cfgLog h), if_pos ⟨(exec_busy h nofun).trans hb, (exec_dir_t h).symm⟩]

/-- When `T` has advanced no strobe stands: a `DIR` takes no tick, and the earlier calls are in the past. -/
theorem exec_dirReq_of_t_lt (hp : CallsInThePast s) (h : exec i s = .next t) (ht : s.t < t.t) :
    t.dirReq = Option.none := by
  have hi : ∀ a e, i ≠ .dir a e := by
    rintro a e rfl
    exact ht.ne' (exec_dir_t h)
  refine dirReq_of_past fun c hc => ?_
  rw [exec_cfgLog_of_ne_dir h hi] at hc
  exact (hp c hc).trans_lt ht

/-- Settles O11: the strobe is a function of the log of calls, `BUSY` and `T`. -/
theorem configureStrobeIsPulsed : Obligations.ConfigureStrobeIsPulsed := by
  intro i s t hp h
  refine ⟨?_, fun hi hb ht => ?_, exec_dirReq_of_t_lt hp h, dirReq_of_idle, rfl⟩
  · rintro a e rfl hb
    exact exec_dir_dirReq h hb
  · have hend : i ≠ .endOp := by
      rintro rfl
      rw [execEnd_cases h, finish_busy] at hb
      cases hb
    exact dirReq_congr (exec_cfgLog_of_ne_dir h hi) (exec_busy h hend) ht

end Sys2Proof.Machine
end

section
/-! What a step keeps, and the values of reset (10_state.md R22, R28, R39; 70_reset_and_hazards.md R210, R211). -/

namespace Sys2Proof.Machine

/-- Settles O33: only START and `rst` write `PIN`, each with what a port of `PIN_W` bits carries. -/
theorem stepKeepsPinInItsWidth : Obligations.StepKeepsPinInItsWidth := by
  intro s t hs h
  obtain ⟨p, v, -, -, rfl⟩ | ⟨-, rfl⟩ | ⟨-, -, rfl⟩ | ⟨-, -, rfl⟩ | ⟨-, -, i, -, he⟩ := step_cases h
  · exact ⟨pinOnPort_lt s.pinW p, rfl⟩
  · exact ⟨pinOnPort_lt s.pinW _, rfl⟩
  · exact ⟨hs, rfl⟩
  · exact ⟨hs, rfl⟩
  · obtain ⟨hpin, hpinW⟩ := exec_pin he
    exact ⟨by unfold PinFits; rw [hpin, hpinW]; exact hs, hpinW⟩

/-- Settles O38: `State.reset` is written with the values of R39. -/
theorem resetLeavesTheStatedValues : Obligations.ResetLeavesTheStatedValues :=
  ⟨rfl, rfl, rfl, rfl, rfl, rfl, rfl, rfl, rfl, rfl, rfl, rfl, rfl, rfl⟩

/-- The step in which an `rst` is due makes it (R210). -/
theorem step_of_rst {s : State} (h : dueMove s = some .rst) : step s = .next (assertRst (takeInbox s)) := by
  simp only [step, h, makeMove]

/-- Settles O39: the step is the `rst`, whose values are those of R39. -/
theorem rstGivesTheResetValues : Obligations.RstGivesTheResetValues := by
  intro s rest h
  obtain ⟨hdue, htake⟩ := dueMove_of_cons h
  refine ⟨_, step_of_rst hdue, rfl, rfl, rfl, rfl, rfl, rfl, rfl, rfl, rfl, rfl, rfl, rfl, rfl, rfl, rfl, rfl, ?_⟩
  rw [assertRst_inbox, htake]

/-- Settles O40: Idle, a step that is neither START nor `rst` changes the inbox alone. -/
theorem measurementStaysUntilTheNextStart : Obligations.MeasurementStaysUntilTheNextStart := by
  intro s t hb hd h
  obtain ⟨p, v, hm, -⟩ | ⟨hm, -⟩ | ⟨-, -, rfl⟩ | ⟨-, -, rfl⟩ | ⟨-, hb', -⟩ := step_cases h
  · exact .inr (.inl ⟨p, v, hm⟩)
  · exact .inr (.inr hm)
  · exact .inl ⟨rfl, hb, hd⟩
  · exact .inl ⟨rfl, hb, hd⟩
  · exact absurd (hb.symm.trans hb') (by decide)

end Sys2Proof.Machine
end

section
/-! The invariant of the canonical micro-program (10_state.md R40, 30_encoding.md R82). Its clauses by address fall into two
parts: those of a read up to `VAL` (`BeforeVal`), which have a start pulse and the waits after it, and those from `EPILOGUE`
on and while Idle (`Closing`). Each micro-operation of the program gets one lemma, which says where the read stands after it. -/

namespace Sys2Proof.Machine

variable {s t : State}

/-! ## `UPC + 1` as a number -/

theorem advance_upc_toNat (h : s.upc.toNat < 31) : (advance s).upc.toNat = s.upc.toNat + 1 := by
  have h31 : s.upc ≠ 31 := fun h2 => by simp [h2] at h
  rw [advance_upc, if_neg h31]
  bv_omega

theorem advance_upcOver_of_lt (h : s.upc.toNat < 31) : (advance s).upcOver = false := by
  have h31 : s.upc ≠ 31 := fun h2 => by simp [h2] at h
  simpa using h31

/-! ## The fetch in the canonical micro-program -/

theorem fetch_of_decode {i : Instr} (ho : s.upcOver = false) (hd : decode (romWord s.rom s.upc) = .ok i) :
    fetch s = .ok i := by
  simp [fetch, ho, hd]

theorem decode_encode_canonical :
    ∀ i ∈ canonicalProgram Config.defaults, decode (encode i) = .ok i := by decide

/-- A state with the invariant fetches the micro-operation of R82 at its address. -/
theorem CanonicalInv.fetch_eq (h : CanonicalInv s) :
    ∃ i, (canonicalProgram Config.defaults)[s.upc.toNat]? = some i ∧ fetch s = .ok i := by
  have hlt : s.upc.toNat < (canonicalProgram Config.defaults).length := Nat.lt_succ_of_le h.inRom.2
  have hword : romWord s.rom s.upc = encode (canonicalProgram Config.defaults)[s.upc.toNat] := by
    rw [h.rom]
    exact romWord_romImage (List.getElem?_eq_getElem hlt)
  exact ⟨_, List.getElem?_eq_getElem hlt,
    fetch_of_decode h.inRom.1 (hword ▸ decode_encode_canonical _ (List.getElem_mem hlt))⟩

/-! ## A read up to `VAL` -/

/-- What R40 (b), (f), (g) and R35 say of a read in progress at any address before the error and the results are written. -/
structure BeforeVal (s : State) : Prop where
  rom : s.rom = canonicalRom Config.defaults
  upcOver : s.upcOver = false
  busy : s.busy = true
  done : s.done = false
  err : s.err = .none
  hum : s.hum = 0
  tmp : s.tmp = 0
  chk : s.chk = 0
  elapsed : s.e.toNat ≤ 20000

/-- R40 (g) the other way round: a read in progress is not done. -/
theorem CanonicalInv.not_done (h : CanonicalInv s) (hb : s.busy = true) : s.done = false := by
  cases hd : s.done with
  | false => rfl
  | true => rw [h.doneIdle hd] at hb; cases hb

theorem CanonicalInv.beforeVal (h : CanonicalInv s) (hb : s.busy = true) (hu : s.upc.toNat ≤ 13) : BeforeVal s where
  rom := h.rom
  upcOver := h.inRom.1
  busy := hb
  done := h.not_done hb
  err := h.noErrorYet hb hu
  hum := (h.zeroBefore hb (by omega)).1
  tmp := (h.zeroBefore hb (by omega)).2
  chk := h.chkZeroBefore hb hu
  elapsed := h.elapsed

theorem BeforeVal.advance (b : BeforeVal s) (hu : s.upc.toNat < 31) : BeforeVal (advance s) :=
  { b with upcOver := advance_upcOver_of_lt hu }

theorem BeforeVal.elapse (b : BeforeVal s) {n : Nat} (hn : n ≤ 20000) : BeforeVal (elapse n s) :=
  { b with elapsed := (Nat.mod_le n (2 ^ 16)).trans hn }

/-- The log of `Configure` calls (log 13) is none of it. -/
theorem BeforeVal.call (b : BeforeVal s) (c : CfgCall) : BeforeVal { s with cfgLog := c :: s.cfgLog } := { b with }

/-- The start pulse (R86), from START to the second `DIR`: no bit is counted yet. -/
theorem BeforeVal.startPulse (b : BeforeVal s) (hu : s.upc.toNat ≤ 6) (hi : s.i = 0)
    (hcrit : s.crit = decide (s.upc.toNat ≠ 0)) (hdir : 2 ≤ s.upc.toNat → s.dir = .output)
    (hout : s.out = if 3 ≤ s.upc.toNat ∧ s.upc.toNat ≤ 4 then .low else .high) : CanonicalInv s where
  rom := b.rom
  inRom := ⟨b.upcOver, by omega⟩
  idle hb := by simp [b.busy] at hb
  index := by simp [hi]
  indexBefore _ _ := hi
  indexLoop := by omega
  indexAfter := by omega
  elapsed := b.elapsed
  samples k hk := by
    have h0 : s.i.toNat = 0 := by simp [hi]
    omega
  critHeld _ h1 _ := by rw [hcrit]; exact decide_eq_true (by omega)
  critFree hf := by rw [hcrit]; exact decide_eq_false (by simp only [b.busy, reduceCtorEq, false_or] at hf; omega)
  pulse _ h2 _ := hdir h2
  waits := by omega
  stuckOutput _ hf := by simp only [b.busy, reduceCtorEq, false_or] at hf; omega
  level := by simp only [hout, b.busy, true_and]
  noErrorYet _ _ := b.err
  afterVal := by omega
  doneIdle hd := by simp [b.done] at hd
  zeroBefore _ _ := ⟨b.hum, b.tmp⟩
  chkZeroBefore _ _ := b.chk
  zeroFailed hn := absurd b.err hn

/-- A micro-operation of the start pulse that falls through from address `u`. -/
theorem BeforeVal.advance_startPulse (b : BeforeVal s) {u : Nat} (hu : s.upc.toNat = u) (h5 : u ≤ 5) (hi : s.i = 0)
    (hcrit : s.crit = true) (hdir : 1 ≤ u → s.dir = .output) (hout : s.out = if 2 ≤ u ∧ u ≤ 3 then .low else .high) :
    CanonicalInv (Machine.advance s) := by
  have hadv : (Machine.advance s).upc.toNat = u + 1 := hu ▸ advance_upc_toNat (by omega)
  exact (b.advance (by omega)).startPulse (by omega) hi (hcrit.trans (decide_eq_true (by omega)).symm)
    (fun h => hdir (by omega)) (hout.trans (if_congr (by omega) rfl rfl))

/-- The waits, the bit loop and `DEC`: the line is released, and the index counts the bits. -/
theorem BeforeVal.waitsForLine (b : BeforeVal s) (h7 : 7 ≤ s.upc.toNat) (hu : s.upc.toNat ≤ 13) (hcrit : s.crit = true)
    (hdir : s.dir = .input) (hout : s.out = .high) (hbefore : s.upc.toNat ≤ 8 → s.i = 0)
    (hloop : 9 ≤ s.upc.toNat → s.upc.toNat ≤ 11 → s.i.toNat ≤ 39) (hafter : 12 ≤ s.upc.toNat → s.i = 40)
    (hsamples : ∀ k : Fin Config.nBits, (k.val < s.i.toNat ∨ (k.val = s.i.toNat ∧ s.upc.toNat = 11)) →
      s.samples[k].toNat ≤ 70) : CanonicalInv s where
  rom := b.rom
  inRom := ⟨b.upcOver, by omega⟩
  idle hb := by simp [b.busy] at hb
  index := by
    rcases (by omega : s.upc.toNat ≤ 8 ∨ (9 ≤ s.upc.toNat ∧ s.upc.toNat ≤ 11) ∨ 12 ≤ s.upc.toNat) with h | ⟨h, h'⟩ | h
    · simp [hbefore h]
    · exact (hloop h h').trans (by decide)
    · simp [hafter h]
  indexBefore _ := hbefore
  indexLoop _ := hloop
  indexAfter _ h _ := hafter h
  elapsed := b.elapsed
  samples k hk := hsamples k (hk.imp_right fun h => ⟨h.1, h.2.2⟩)
  critHeld _ _ _ := hcrit
  critFree hf := by simp only [b.busy, reduceCtorEq, false_or] at hf; omega
  pulse := by omega
  waits _ _ _ := hdir
  stuckOutput hd := by simp [hdir] at hd
  level := by rw [hout, if_neg (by omega)]
  noErrorYet _ _ := b.err
  afterVal := by omega
  doneIdle hd := by simp [b.done] at hd
  zeroBefore _ _ := ⟨b.hum, b.tmp⟩
  chkZeroBefore _ _ := b.chk
  zeroFailed hn := absurd b.err hn

/-- A micro-operation of that part that falls through from address `u`. -/
theorem BeforeVal.advance_waitsForLine (b : BeforeVal s) {u : Nat} (hu : s.upc.toNat = u) (h6 : 6 ≤ u) (h12 : u ≤ 12)
    (hcrit : s.crit = true) (hdir : s.dir = .input) (hout : s.out = .high) (hbefore : u ≤ 7 → s.i = 0)
    (hloop : 8 ≤ u → u ≤ 10 → s.i.toNat ≤ 39) (hafter : 11 ≤ u → s.i = 40)
    (hsamples : ∀ k : Fin Config.nBits, (k.val < s.i.toNat ∨ (k.val = s.i.toNat ∧ u = 10)) → s.samples[k].toNat ≤ 70) :
    CanonicalInv (Machine.advance s) := by
  have hadv : (Machine.advance s).upc.toNat = u + 1 := hu ▸ advance_upc_toNat (by omega)
  exact (b.advance (by omega)).waitsForLine (by omega) (by omega) hcrit hdir hout (fun h => hbefore (by omega))
    (fun h h' => hloop (by omega) (by omega)) (fun h => hafter (by omega))
    (fun k hk => hsamples k (hk.imp_right fun h => ⟨h.1, by omega⟩))

/-! ## `EPILOGUE`, `END` and Idle -/

/-- What R40 says from `EPILOGUE` on and while Idle, whatever the outcome of the read: the line is released, or left driven
`High` by a failed `Configure` call. -/
structure Closing (s : State) : Prop where
  rom : s.rom = canonicalRom Config.defaults
  upcOver : s.upcOver = false
  index : s.i.toNat ≤ 40
  elapsed : s.e.toNat ≤ 20000
  samples : ∀ k : Fin Config.nBits, k.val < s.i.toNat → s.samples[k].toNat ≤ 70
  stuckOutput : s.dir = .output → s.err = .invalidConfiguration
  level : s.out = .high
  zeroFailed : s.err ≠ .none → s.err ≠ .checksum → s.hum = 0 ∧ s.tmp = 0 ∧ s.chk = 0

theorem CanonicalInv.closing (h : CanonicalInv s) (hc : s.busy = false ∨ 15 ≤ s.upc.toNat) : Closing s where
  rom := h.rom
  upcOver := h.inRom.1
  index := h.index
  elapsed := h.elapsed
  samples k hk := h.samples k (.inl hk)
  stuckOutput hd := h.stuckOutput hd hc
  level := by
    refine h.level.trans (if_neg fun ⟨hb, _, h4⟩ => ?_)
    simp only [hb, reduceCtorEq, false_or] at hc
    omega
  zeroFailed := h.zeroFailed

theorem Closing.idle (c : Closing s) (hb : s.busy = false) (hu : s.upc = 0) (hcrit : s.crit = false) : CanonicalInv s where
  rom := c.rom
  inRom := ⟨c.upcOver, by simp [hu]⟩
  idle _ := hu
  index := c.index
  indexBefore := by simp [hb]
  indexLoop := by simp [hb]
  indexAfter := by simp [hb]
  elapsed := c.elapsed
  samples k hk := c.samples k (by simpa [hb] using hk)
  critHeld := by simp [hb]
  critFree _ := hcrit
  pulse := by simp [hb]
  waits := by simp [hb]
  stuckOutput hd _ := c.stuckOutput hd
  level := by simp [c.level, hb]
  noErrorYet := by simp [hb]
  afterVal := by simp [hb]
  doneIdle _ := hb
  zeroBefore := by simp [hb]
  chkZeroBefore := by simp [hb]
  zeroFailed := c.zeroFailed

/-- At `EPILOGUE` the critical section is held, at `END` it has been left (R40 (d)). -/
theorem Closing.epilogue (c : Closing s) (hb : s.busy = true) (hd : s.done = false)
    (hu : (s.upc.toNat = 15 ∧ s.crit = true) ∨ (s.upc.toNat = 16 ∧ s.crit = false)) : CanonicalInv s where
  rom := c.rom
  inRom := ⟨c.upcOver, by omega⟩
  idle := by simp [hb]
  index := c.index
  indexBefore := by omega
  indexLoop := by omega
  indexAfter := by omega
  elapsed := c.elapsed
  samples k hk := c.samples k (by omega)
  critHeld _ _ h15 := (hu.resolve_right fun h => by omega).2
  critFree hf := by
    simp only [hb, reduceCtorEq, false_or] at hf
    exact (hu.resolve_left fun h => by omega).2
  pulse := by omega
  waits := by omega
  stuckOutput hd _ := c.stuckOutput hd
  level := by rw [c.level, if_neg (by omega)]
  noErrorYet := by omega
  afterVal := by omega
  doneIdle := by simp [hd]
  zeroBefore := by omega
  chkZeroBefore := by omega
  zeroFailed := c.zeroFailed

/-- An abort of a read (R160): it goes on at `EPILOGUE` with its results 0 (R35), and only a failed `Configure` call leaves the
line driven. -/
theorem BeforeVal.abort (b : BeforeVal s) {x : ErrorKind} (hcrit : s.crit = true) (hout : s.out = .high)
    (hdir : s.dir = .output → x = .invalidConfiguration) (hi : s.i.toNat ≤ 40)
    (hsamples : ∀ k : Fin Config.nBits, k.val < s.i.toNat → s.samples[k].toNat ≤ 70) : CanonicalInv (abort x s) :=
  have c : Closing (Machine.abort x s) :=
    { b with
      upcOver := rfl, index := hi, samples := hsamples, stuckOutput := hdir, level := hout
      zeroFailed := fun _ _ => ⟨b.hum, b.tmp, b.chk⟩ }
  c.epilogue b.busy b.done (.inl ⟨rfl, hcrit⟩)

/-! ## One lemma for each micro-operation of the program -/

namespace CanonicalInv

theorem out_high (h : CanonicalInv s) (hu : s.upc.toNat ≤ 2 ∨ 5 ≤ s.upc.toNat) : s.out = .high :=
  h.level.trans (if_neg (by omega))

theorem keeps_cent (h : CanonicalInv s) (hb : s.busy = true) (hu : s.upc.toNat = 0) (he : exec .cent s = .next t) :
    CanonicalInv t := by
  obtain rfl := execCent_cases he
  have b : BeforeVal (critEnter s) := { h.beforeVal hb (by omega) with }
  exact b.advance_startPulse hu (by decide) (h.indexBefore hb (by omega)) rfl (by omega) (h.out_high (by omega))

theorem keeps_dirOutput (h : CanonicalInv s) (hb : s.busy = true) (hu : s.upc.toNat = 1)
    (he : exec (.dir .output .invalidConfiguration) s = .next t) : CanonicalInv t := by
  have b := h.beforeVal hb (by omega)
  have hcrit := h.critHeld hb (by omega) (by omega)
  have hout := h.out_high (by omega)
  obtain ⟨-, rfl⟩ | ⟨-, rfl⟩ := execDir_cases he
  · exact BeforeVal.advance_startPulse { b with } hu (by decide) (h.indexBefore hb (by omega)) hcrit (fun _ => rfl) hout
  · exact (b.call _).abort hcrit hout (fun _ => rfl) h.index (fun k hk => h.samples k (.inl hk))

theorem keeps_dirInput (h : CanonicalInv s) (hb : s.busy = true) (hu : s.upc.toNat = 6)
    (he : exec (.dir .input .invalidConfiguration) s = .next t) : CanonicalInv t := by
  have b := h.beforeVal hb (by omega)
  have hcrit := h.critHeld hb (by omega) (by omega)
  have hout := h.out_high (by omega)
  have hi := h.indexBefore hb (by omega)
  obtain ⟨-, rfl⟩ | ⟨-, rfl⟩ := execDir_cases he
  · exact BeforeVal.advance_waitsForLine { b with } hu (by decide) (by decide) hcrit rfl hout (fun _ => hi) (by omega)
      (by omega) (fun k hk => h.samples k (hk.imp_right fun hk => by omega))
  · exact (b.call _).abort hcrit hout (fun _ => rfl) h.index (fun k hk => h.samples k (.inl hk))

theorem keeps_lvl (h : CanonicalInv s) (hb : s.busy = true) {a : Level} {u : Nat} (hu : s.upc.toNat = u)
    (ha : (u = 2 ∧ a = .low) ∨ (u = 4 ∧ a = .high)) (he : exec (.lvl a) s = .next t) : CanonicalInv t := by
  have b := h.beforeVal hb (by omega)
  obtain ⟨hdir, rfl⟩ := execLvl_cases he
  refine BeforeVal.advance_startPulse { b with } hu (by omega) (h.indexBefore hb (by omega))
    (h.critHeld hb (by omega) (by omega)) (fun _ => hdir) ?_
  obtain ⟨rfl, rfl⟩ | ⟨rfl, rfl⟩ := ha <;> rfl

theorem keeps_dly (h : CanonicalInv s) (hb : s.busy = true) {n : Count} {u : Nat} (hu : s.upc.toNat = u)
    (hu35 : u = 3 ∨ u = 5) (hn : n.toNat ≤ 20000) (he : exec (.dly n) s = .next t) : CanonicalInv t := by
  have b := h.beforeVal hb (by omega)
  obtain rfl := execDly_cases he
  refine BeforeVal.advance_startPulse { b with elapsed := hn } hu (by omega) (h.indexBefore hb (by omega))
    (h.critHeld hb (by omega) (by omega)) (fun _ => h.pulse hb (by omega) (by omega)) ?_
  simp only [h.level, hb, hu, true_and]
  obtain rfl | rfl := hu35 <;> rfl

theorem keeps_wait (h : CanonicalInv s) (hb : s.busy = true) {a : Level} {n : Count} {x : ErrorKind} {u : Nat}
    (hu : s.upc.toNat = u) (h7 : 7 ≤ u) (h9 : u ≤ 9) (hn : n.toNat < 20000) (he : exec (.wait a n x) s = .next t) :
    CanonicalInv t := by
  have b := h.beforeVal hb (by omega)
  have hcrit := h.critHeld hb (by omega) (by omega)
  have hout := h.out_high (by omega)
  have hi : s.i.toNat ≤ 39 := by
    rcases Nat.lt_or_ge u 9 with h9 | h9
    · simp [h.indexBefore hb (by omega)]
    · exact h.indexLoop hb (by omega) (by omega)
  obtain ⟨hdir, ⟨k, ⟨hk, -, -⟩, rfl⟩ | ⟨-, rfl⟩⟩ := execWait_cases he
  · exact (b.elapse (hk.trans hn.le)).advance_waitsForLine hu (by omega) (by omega) hcrit hdir hout
      (fun _ => h.indexBefore hb (by omega)) (fun _ _ => hi) (by omega)
      (fun j hj => h.samples j (hj.imp_right fun hj => by omega))
  · exact (b.elapse (by omega)).abort hcrit hout (by simp [hdir]) h.index (fun j hj => h.samples j (.inl hj))

/-- The sample that `WAITM` takes counts as written until `LOOP` counts it (R40 (c)). -/
theorem keeps_waitm (h : CanonicalInv s) (hb : s.busy = true) {a : Level} {n : Count} {x : ErrorKind}
    (hu : s.upc.toNat = 10) (hn : n.toNat ≤ 70) (he : exec (.waitm a n x) s = .next t) : CanonicalInv t := by
  have b := h.beforeVal hb (by omega)
  have hcrit := h.critHeld hb (by omega) (by omega)
  have hout := h.out_high (by omega)
  obtain ⟨hdir, ⟨k, hi, ⟨hk, -, -⟩, rfl⟩ | ⟨-, rfl⟩⟩ := execWaitm_cases he
  · have b' := b.elapse (by omega : k ≤ 20000)
    refine BeforeVal.advance_waitsForLine { b' with } hu (by decide) (by decide) hcrit hdir hout (by omega)
      (fun _ _ => h.indexLoop hb (by omega) (by omega)) (by omega) (fun j hj => ?_)
    have hv : (BitVec.ofNat 16 k).toNat ≤ 70 := (Nat.mod_le k _).trans (hk.trans hn)
    by_cases hij : s.i.toNat = j.val
    · simpa [hij] using hv
    · simpa [Vector.getElem_set_ne _ _ hij] using h.samples j (.inl (hj.resolve_right fun h => hij h.1.symm))
  · exact (b.elapse (by omega)).abort hcrit hout (by simp [hdir]) h.index (fun j hj => h.samples j (.inl hj))

theorem keeps_loop (h : CanonicalInv s) (hb : s.busy = true) (hu : s.upc.toNat = 11)
    (he : exec (.loop 9 40) s = .next t) : CanonicalInv t := by
  have b := h.beforeVal hb (by omega)
  have hcrit := h.critHeld hb (by omega) (by omega)
  have hdir := h.waits hb (by omega) (by omega)
  have hout := h.out_high (by omega)
  have h39 := h.indexLoop hb (by omega) (by omega)
  have hi : (s.i + 1).toNat = s.i.toNat + 1 := by bv_omega
  have hsamples (k : Fin Config.nBits) (hk : k.val < (s.i + 1).toNat) : s.samples[k].toNat ≤ 70 :=
    h.samples k ((Nat.lt_succ_iff_lt_or_eq.mp (hi.subst hk)).imp_right fun hk => ⟨hk, hb, hu⟩)
  obtain ⟨-, ⟨hlt, rfl⟩ | ⟨hge, rfl⟩⟩ := execLoop_cases he
  · have hlt : s.i.toNat + 1 < 40 := hlt
    exact BeforeVal.waitsForLine { b with upcOver := rfl } (by simp) (by simp) hcrit hdir hout (by simp)
      (fun _ _ => hi.trans_le (by omega)) (by simp) (fun k hk => hsamples k (hk.resolve_right (by simp)))
  · have hge : 40 ≤ s.i.toNat + 1 := hge
    have h40 : s.i + 1 = 40 := by bv_omega
    exact BeforeVal.advance_waitsForLine { b with } hu (by decide) (by decide) hcrit hdir hout (by omega) (by omega)
      (fun _ => h40) (fun k hk => hsamples k (hk.resolve_right fun h => by omega))

theorem keeps_dec (h : CanonicalInv s) (hb : s.busy = true) {thr : Count} (hu : s.upc.toNat = 12)
    (he : exec (.dec thr) s = .next t) : CanonicalInv t := by
  have b := h.beforeVal hb (by omega)
  obtain rfl := execDec_cases he
  exact BeforeVal.advance_waitsForLine { b with } hu (by decide) (by decide) (h.critHeld hb (by omega) (by omega))
    (h.waits hb (by omega) (by omega)) (h.out_high (by omega)) (by omega) (by omega)
    (fun _ => h.indexAfter hb (by omega) (by omega)) (fun k hk => h.samples k (.inl (hk.resolve_right fun h => by omega)))

/-- `VAL` (R133, D35): the read goes to address 14 with `ERR` `None` or `Checksum`. -/
theorem keeps_val (h : CanonicalInv s) (hb : s.busy = true) (hu : s.upc.toNat = 13) (he : exec .val s = .next t) :
    CanonicalInv t := by
  obtain rfl := execVal_cases he
  have b := h.beforeVal hb (by omega)
  have hdir := h.waits hb (by omega) (by omega)
  have hverr : valError s.frame s.err = .none ∨ valError s.frame s.err = .checksum :=
    (valError_cases s.frame s.err).imp_left fun hv => hv.trans b.err
  set s1 := keepChecksum { s with err := valError s.frame s.err } with hs1
  have hadv : (advance s1).upc.toNat = 14 := (advance_upc_toNat (s := s1) (hu.trans_lt (by decide))).trans (hu ▸ rfl)
  exact {
    rom := h.rom
    inRom := ⟨advance_upcOver_of_lt (s := s1) (hu.trans_lt (by decide)), by omega⟩
    idle := fun hf => absurd (hf.symm.trans hb) (by decide)
    index := h.index
    indexBefore := by omega
    indexLoop := by omega
    indexAfter := fun _ _ _ => h.indexAfter hb (by omega) (by omega)
    elapsed := h.elapsed
    samples := fun k hk => h.samples k (.inl (hk.resolve_right fun h => by omega))
    critHeld := fun _ _ _ => h.critHeld hb (by omega) (by omega)
    critFree := fun hf => absurd (hf.resolve_right (by omega)) (by simp [hs1, hb])
    pulse := by omega
    waits := fun _ _ _ => hdir
    stuckOutput := fun ho => absurd (ho.symm.trans hdir) (by decide)
    level := (h.out_high (by omega)).trans (if_neg (by omega)).symm
    noErrorYet := by omega
    afterVal := fun _ _ => hverr
    doneIdle := h.doneIdle
    zeroBefore := fun _ _ => ⟨b.hum, b.tmp⟩
    chkZeroBefore := by omega
    zeroFailed := fun h1 h2 => absurd hverr (not_or.mpr ⟨h1, h2⟩) }

/-- `CVT` (R135) leaves `ERR` as `VAL` left it, so the results need not be 0. -/
theorem keeps_cvt (h : CanonicalInv s) (hb : s.busy = true) (hu : s.upc.toNat = 14) (he : exec .cvt s = .next t) :
    CanonicalInv t := by
  obtain rfl := execCvt_cases he
  have hdir := h.waits hb (by omega) (by omega)
  have c : Closing (advance (setMeasurement s)) :=
    { h with
      upcOver := advance_upcOver_of_lt (s := setMeasurement s) (hu.trans_lt (by decide))
      samples := fun k hk => h.samples k (.inl hk)
      stuckOutput := fun ho => absurd (ho.symm.trans hdir) (by decide)
      level := h.out_high (by omega)
      zeroFailed := fun h1 h2 => absurd (h.afterVal hb hu) (not_or.mpr ⟨h1, h2⟩) }
  exact c.epilogue hb (h.not_done hb) (.inl ⟨(advance_upc_toNat (s := setMeasurement s) (hu.trans_lt (by decide))).trans
    (congrArg (· + 1) hu), h.critHeld hb (by omega) (by omega)⟩)

theorem keeps_cext (h : CanonicalInv s) (hb : s.busy = true) (hu : s.upc.toNat = 15) (he : exec .cext s = .next t) :
    CanonicalInv t := by
  obtain rfl := execCext_cases he
  have c : Closing (advance (critExit s)) :=
    { h.closing (.inr (by omega)) with upcOver := advance_upcOver_of_lt (s := critExit s) (hu.trans_lt (by decide)) }
  exact c.epilogue hb (h.not_done hb) (.inr ⟨(advance_upc_toNat (s := critExit s) (hu.trans_lt (by decide))).trans
    (congrArg (· + 1) hu), rfl⟩)

theorem keeps_endOp (h : CanonicalInv s) (hu : s.upc.toNat = 16) (he : exec .endOp s = .next t) : CanonicalInv t := by
  obtain rfl := execEnd_cases he
  have c : Closing (finish s) := { h.closing (.inr (by omega)) with upcOver := rfl }
  exact c.idle rfl rfl (h.critFree (.inr (.inr hu)))

/-- Every micro-operation of the canonical micro-program keeps the invariant. -/
theorem keeps_exec (h : CanonicalInv s) (hb : s.busy = true) {i : Instr} (hf : fetch s = .ok i)
    (he : exec i s = .next t) : CanonicalInv t := by
  obtain ⟨j, hj, hfj⟩ := h.fetch_eq
  obtain rfl := Except.ok.inj (hfj.symm.trans hf)
  have h16 := h.inRom.2
  generalize hu : s.upc.toNat = u at hj h16
  interval_cases u <;> obtain rfl := Option.some.inj hj
  · exact h.keeps_cent hb hu he
  · exact h.keeps_dirOutput hb hu he
  · exact h.keeps_lvl hb hu (.inl ⟨rfl, rfl⟩) he
  · exact h.keeps_dly hb hu (.inl rfl) (by decide) he
  · exact h.keeps_lvl hb hu (.inr ⟨rfl, rfl⟩) he
  · exact h.keeps_dly hb hu (.inr rfl) (by decide) he
  · exact h.keeps_dirInput hb hu he
  · exact h.keeps_wait hb hu (by decide) (by decide) (by decide) he
  · exact h.keeps_wait hb hu (by decide) (by decide) (by decide) he
  · exact h.keeps_wait hb hu (by decide) (by decide) (by decide) he
  · exact h.keeps_waitm hb hu (by decide) he
  · exact h.keeps_loop hb hu he
  · exact h.keeps_dec hb hu he
  · exact h.keeps_val hb hu he
  · exact h.keeps_cvt hb hu he
  · exact h.keeps_cext hb hu he
  · exact h.keeps_endOp hu he

/-! ## The moves of the host, and reset -/

theorem takeInbox (h : CanonicalInv s) : CanonicalInv (takeInbox s) := { h with }

theorem startRead (h : CanonicalInv s) (hb : s.busy = false) (p : PinId) (v : Env) : CanonicalInv (startRead p v s) :=
  have b : BeforeVal (Machine.startRead p v s) :=
    { rom := h.rom, upcOver := rfl, busy := rfl, done := rfl, err := rfl, hum := rfl, tmp := rfl, chk := rfl
      elapsed := Nat.zero_le _ }
  b.startPulse (Nat.zero_le _) rfl (h.critFree (.inl hb)) (by simp) (h.level.trans (by simp [hb]))

/-- The values of R39 meet the invariant, whatever the buffers hold. -/
theorem of_reset_values (hrom : s.rom = canonicalRom Config.defaults) (hover : s.upcOver = false) (hi : s.i = 0)
    (he : s.e = 0) (hdir : s.dir = .input) (hout : s.out = .high) (herr : s.err = .none) (hb : s.busy = false)
    (hu : s.upc = 0) (hcrit : s.crit = false) : CanonicalInv s :=
  have c : Closing s :=
    { rom := hrom, upcOver := hover, level := hout
      index := by simp [hi]
      elapsed := by simp [he]
      samples := by simp [hi]
      stuckOutput := by simp [hdir]
      zeroFailed := fun h => absurd herr h }
  c.idle hb hu hcrit

theorem assertRst (h : CanonicalInv s) : CanonicalInv (assertRst s) :=
  of_reset_values h.rom rfl rfl rfl rfl rfl rfl rfl rfl rfl

end CanonicalInv

/-- Settles O49: reset leaves the values of R39 and the canonical ROM. -/
theorem canonicalInvariantHoldsAtReset : Obligations.CanonicalInvariantHoldsAtReset :=
  CanonicalInv.of_reset_values rfl rfl rfl rfl rfl rfl rfl rfl rfl rfl

/-- Settles O48: a step is a move of the host, idling, or the micro-operation of the canonical micro-program at `UPC`, and each
of them keeps the invariant. -/
theorem stepKeepsTheCanonicalInvariant : Obligations.StepKeepsTheCanonicalInvariant := by
  intro s t h hstep
  obtain ⟨p, v, -, hb, rfl⟩ | ⟨-, rfl⟩ | ⟨-, -, rfl⟩ | ⟨-, -, rfl⟩ | ⟨-, hb, i, hf, he⟩ := step_cases hstep
  · exact h.takeInbox.startRead hb p v
  · exact h.takeInbox.assertRst
  · exact h.takeInbox
  · exact h.takeInbox
  · exact h.takeInbox.keeps_exec hb hf he

end Sys2Proof.Machine
end

section
/-! The ROM is read-only (20_memory.md R67). -/

namespace Sys2Proof.Machine

/-- No micro-operation writes the ROM (R15, R67). -/
theorem exec_rom {i : Instr} {s t : State} (h : exec i s = .next t) : t.rom = s.rom := by
  obtain ⟨-, -, -, -, -, -, -, -, -, -, -, -, hrom, -⟩ := registersChangeByTheirWritersOnly i s t h
  exact hrom

/-- Settles O41: START, `rst` and the taking of the inbox have no access to the ROM, and no micro-operation writes it. -/
theorem romIsNeverWritten : Obligations.RomIsNeverWritten := by
  intro s t h
  obtain ⟨p, v, -, -, rfl⟩ | ⟨-, rfl⟩ | ⟨-, -, rfl⟩ | ⟨-, -, rfl⟩ | ⟨-, -, i, -, he⟩ := step_cases h
  · rw [startRead_rom, takeInbox_rom]
  · rw [assertRst_rom, takeInbox_rom]
  · exact takeInbox_rom s
  · exact takeInbox_rom s
  · exact (exec_rom he).trans (takeInbox_rom s)

end Sys2Proof.Machine
end

section
/-! The decoder and the encoder are inverse to each other (30_encoding.md R70 to R73). -/

namespace Sys2Proof

variable {w : UWord}

/-! ## Words and their fields -/

/-- Four fields make up a word exactly when they are its fields (R70). -/
theorem assemble_eq_iff {op : BitVec 4} {a : Bool} {err : BitVec 3} {imm : Count} :
    assemble op a err imm = w ↔ opField w = op ∧ aField w = a ∧ errField w = err ∧ immField w = imm := by
  constructor
  · rintro rfl
    simp
  · rintro ⟨rfl, rfl, rfl, rfl⟩
    exact assemble_fields w

@[simp] theorem aZero_iff : aZero w = true ↔ aField w = false := by simp [aZero]
@[simp] theorem errZero_iff : errZero w = true ↔ errField w = 0 := by simp [errZero]
@[simp] theorem immZero_iff : immZero w = true ↔ immField w = 0 := by simp [immZero]

@[simp] theorem operandsZero_iff : operandsZero w = true ↔ aField w = false ∧ errField w = 0 ∧ immField w = 0 := by
  simp [operandsZero, aZero_iff, errZero_iff, immZero_iff, and_assoc]

@[simp] theorem tgtField_assemble_loopImm (op : BitVec 4) (a : Bool) (err : BitVec 3) (tgt : Addr) (cnt : BitVec 8) :
    tgtField (assemble op a err (loopImm tgt cnt)) = tgt := by
  simp [tgtField_eq]

@[simp] theorem cntField_assemble_loopImm (op : BitVec 4) (a : Bool) (err : BitVec 3) (tgt : Addr) (cnt : BitVec 8) :
    cntField (assemble op a err (loopImm tgt cnt)) = cnt := by
  simp [cntField_eq]

@[simp] theorem loopZeroField_assemble_loopImm (op : BitVec 4) (a : Bool) (err : BitVec 3) (tgt : Addr)
    (cnt : BitVec 8) : loopZeroField (assemble op a err (loopImm tgt cnt)) = 0 := by
  rw [loopZeroField_eq, immField_assemble, zero_of_loopImm]

/-- The `imm` of a `LOOP` word, from its fields (R71). -/
theorem loopImm_fields (h : loopZeroField w = 0) : loopImm (tgtField w) (cntField w) = immField w := by
  rw [loopZeroField_eq] at h
  rw [tgtField_eq, cntField_eq, loopImm_of_fields _ h]

/-! ## The two directions -/

/-- Settles O42: the decoder reads back each field the encoder wrote, and finds 0 in those it left out. -/
theorem decodeOfEncode : Obligations.DecodeOfEncode := by
  intro i h
  cases i with
  | cent => simp [encode, decode, requireZero]
  | cext => simp [encode, decode, requireZero]
  | dir a err => simp [encode, decode, withErr, errOfCode_code h]
  | lvl a => simp [encode, decode, requireZero]
  | dly imm => simp [encode, decode, requireZero]
  | wait a imm err =>
    obtain ⟨herr, himm⟩ := Bool.and_eq_true_iff.mp h
    simp [encode, decode, withTimeout, withErr, errOfCode_code herr, himm]
  | waitm a imm err =>
    obtain ⟨herr, himm⟩ := Bool.and_eq_true_iff.mp h
    simp [encode, decode, withTimeout, withErr, errOfCode_code herr, himm]
  | loop tgt cnt => simp [encode, decode, requireZero]
  | dec imm => simp [encode, decode, requireZero]
  | val => simp [encode, decode, requireZero]
  | cvt => simp [encode, decode, requireZero]
  | endOp => simp [encode, decode, requireZero]

/-- A word with a row's operation code and no operands is the word of that row. -/
theorem assemble_of_operandsZero {op : BitVec 4} (hop : opField w = op) (hz : operandsZero w = true) :
    assemble op false 0 0 = w :=
  assemble_eq_iff.mpr ⟨hop, operandsZero_iff.mp hz⟩

/-- The same for a row with all three operands, when its `err` field is the code of an error. -/
theorem assemble_of_errOfCode {op : BitVec 4} {err : ErrorKind} (hop : opField w = op)
    (herr : err.code = errField w) : assemble op (levelOfBit (aField w)).bit err.code (immField w) = w :=
  assemble_eq_iff.mpr ⟨hop, (bit_levelOfBit _).symm, herr.symm, rfl⟩

/-- Settles O43: each row of the decoder accounts for all four fields of the word. -/
theorem encodeOfDecode : Obligations.EncodeOfDecode := by
  intro w i h
  unfold decode at h
  split at h
  case h_1 hop | h_2 hop | h_10 hop | h_11 hop | h_12 hop =>
    obtain ⟨hz, rfl⟩ := requireZero_eq_ok.mp h
    exact ⟨rfl, assemble_of_operandsZero (BitVec.eq_of_toNat_eq hop) hz⟩
  case h_3 hop =>
    split at h
    next hz =>
      obtain ⟨err, herr, hi⟩ := withErr_eq_ok.mp h
      obtain rfl := Except.ok.inj hi
      obtain ⟨hwf, hcode⟩ := errOfCode_eq_some herr
      exact ⟨hwf, assemble_eq_iff.mpr
        ⟨BitVec.eq_of_toNat_eq hop, (bit_directionOfBit _).symm, hcode.symm, immZero_iff.mp hz⟩⟩
    next => cases h
  case h_4 hop =>
    obtain ⟨hz, rfl⟩ := requireZero_eq_ok.mp h
    obtain ⟨herr, himm⟩ := Bool.and_eq_true_iff.mp hz
    exact ⟨rfl, assemble_eq_iff.mpr
      ⟨BitVec.eq_of_toNat_eq hop, (bit_levelOfBit _).symm, errZero_iff.mp herr, immZero_iff.mp himm⟩⟩
  case h_5 hop | h_9 hop =>
    obtain ⟨hz, rfl⟩ := requireZero_eq_ok.mp h
    obtain ⟨ha, herr⟩ := Bool.and_eq_true_iff.mp hz
    exact ⟨rfl, assemble_eq_iff.mpr ⟨BitVec.eq_of_toNat_eq hop, aZero_iff.mp ha, errZero_iff.mp herr, rfl⟩⟩
  case h_6 hop | h_7 hop =>
    obtain ⟨err, herr, himm, rfl⟩ := withTimeout_eq_ok.mp h
    obtain ⟨hwf, hcode⟩ := errOfCode_eq_some herr
    exact ⟨Bool.and_eq_true_iff.mpr ⟨hwf, himm⟩, assemble_of_errOfCode (BitVec.eq_of_toNat_eq hop) hcode⟩
  case h_8 hop =>
    obtain ⟨hz, rfl⟩ := requireZero_eq_ok.mp h
    simp only [Bool.and_eq_true, aZero_iff, errZero_iff, beq_iff_eq] at hz
    obtain ⟨⟨ha, herr⟩, hl⟩ := hz
    exact ⟨rfl, assemble_eq_iff.mpr ⟨BitVec.eq_of_toNat_eq hop, ha, herr, (loopImm_fields hl).symm⟩⟩
  case h_13 => cases h

/-- The two directions together: the legal words are the words of the well-formed micro-operations. -/
theorem decode_eq_ok_iff {i : Instr} : decode w = .ok i ↔ i.wf = true ∧ encode i = w :=
  ⟨encodeOfDecode w i, fun ⟨hwf, he⟩ => he ▸ decodeOfEncode i hwf⟩

end Sys2Proof
end

section
/-! The decoder against the rows of 30_encoding.md R73: match, mask and constraint. -/

namespace Sys2Proof

variable {w : UWord} {row : TableRow}

/-! ## Match and mask, field by field -/

@[simp] theorem opField_and (w v : UWord) : opField (w &&& v) = opField w &&& opField v := BitVec.extractLsb'_and
@[simp] theorem aField_and (w v : UWord) : aField (w &&& v) = (aField w && aField v) := BitVec.getLsbD_and
@[simp] theorem errField_and (w v : UWord) : errField (w &&& v) = errField w &&& errField v := BitVec.extractLsb'_and
@[simp] theorem immField_and (w v : UWord) : immField (w &&& v) = immField w &&& immField v := BitVec.extractLsb'_and

/-! A full mask on the operation code, on `err` and on `imm` keeps the field. -/

@[simp] theorem op_and_full (x : BitVec 4) : x &&& 15#4 = x := BitVec.and_allOnes
@[simp] theorem err_and_full (x : BitVec 3) : x &&& 7#3 = x := BitVec.and_allOnes
@[simp] theorem imm_and_full (x : Count) : x &&& 65535#16 = x := BitVec.and_allOnes

/-- The mask of `LOOP` on `imm` is `imm[7:5]` (R71). -/
@[simp] theorem imm_and_loopMask_eq_zero_iff {x : Count} : x &&& 0xE0#16 = 0#16 ↔ x.extractLsb' 5 3 = 0#3 := by
  have hplace : x &&& 0xE0#16 = BitVec.zeroExtend 16 (x.extractLsb' 5 3) <<< 5 := by
    apply BitVec.eq_of_getLsbD_eq
    intro k hk
    simp only [BitVec.getLsbD_and, BitVec.getLsbD_shiftLeft, BitVec.getLsbD_setWidth, BitVec.getLsbD_extractLsb']
    interval_cases k <;> simp
  have hzero : ∀ y : BitVec 3, BitVec.zeroExtend 16 y <<< 5 = 0#16 ↔ y = 0#3 := by decide
  rw [hplace, hzero]

/-- The constraint of R73 on `err`: the field stands for an error. -/
theorem exists_errOfCode_errField_iff :
    (∃ e, errOfCode (errField w) = some e) ↔ 1 ≤ w.toNat / 65536 % 8 ∧ w.toNat / 65536 % 8 ≤ 6 := by
  have hcodes : ∀ c : BitVec 3, (errOfCode c).isSome ↔ 1 ≤ c.toNat ∧ c.toNat ≤ 6 := by decide
  rw [← Option.isSome_iff_exists, hcodes, errField_toNat]

/-- The constraint of R73 on `imm`. -/
theorem timeoutAllowed_immField_iff : timeoutAllowed (immField w) = true ↔ w.toNat % 65536 ≤ 65534 := by
  simp [timeoutAllowed, immField_toNat]

/-- What a row asks of each field: its operation code, 0 under the mask of the others, and its constraints. -/
theorem covers_iff {op : BitVec 4} {am : Bool} {em : BitVec 3} {im : Count} (hp : row.pattern = assemble op false 0 0)
    (hm : row.mask = assemble 0xF am em im) : row.covers w ↔
      (opField w = op ∧ (aField w && am) = false ∧ errField w &&& em = 0 ∧ immField w &&& im = 0) ∧
      (row.errIn1To6 = true → ∃ e, errOfCode (errField w) = some e) ∧
      (row.immAtMost65534 = true → timeoutAllowed (immField w) = true) := by
  rw [TableRow.covers, hp, hm, eq_comm, assemble_eq_iff, exists_errOfCode_errField_iff, timeoutAllowed_immField_iff]
  simp

/-! ## The rows, each in the fields it looks at -/

/-- A row all of whose bits are fixed. -/
theorem covers_iff_eq (hm : row.mask = 0xFFFFFF) (he : row.errIn1To6 = false) (hi : row.immAtMost65534 = false) :
    row.covers w ↔ w = row.pattern := by
  have hfull : w &&& 0xFFFFFF#24 = w := BitVec.and_allOnes
  simp [TableRow.covers, hm, he, hi, hfull]

theorem covers_dir : tableRows[2].covers w ↔
    opField w = 3 ∧ immField w = 0 ∧ ∃ e, errOfCode (errField w) = some e := by
  simpa [tableRows, and_assoc] using
    covers_iff (w := w) (row := tableRows[2]) (op := 3) (am := false) (em := 0) (im := 0xFFFF) rfl rfl

theorem covers_lvl : tableRows[3].covers w ↔ opField w = 4 ∧ errField w = 0 ∧ immField w = 0 := by
  simpa [tableRows] using
    covers_iff (w := w) (row := tableRows[3]) (op := 4) (am := false) (em := 7) (im := 0xFFFF) rfl rfl

theorem covers_dly : tableRows[4].covers w ↔ opField w = 5 ∧ aField w = false ∧ errField w = 0 := by
  simpa [tableRows] using
    covers_iff (w := w) (row := tableRows[4]) (op := 5) (am := true) (em := 7) (im := 0) rfl rfl

theorem covers_wait : tableRows[5].covers w ↔
    opField w = 6 ∧ (∃ e, errOfCode (errField w) = some e) ∧ timeoutAllowed (immField w) = true := by
  simpa [tableRows] using
    covers_iff (w := w) (row := tableRows[5]) (op := 6) (am := false) (em := 0) (im := 0) rfl rfl

theorem covers_waitm : tableRows[6].covers w ↔
    opField w = 7 ∧ (∃ e, errOfCode (errField w) = some e) ∧ timeoutAllowed (immField w) = true := by
  simpa [tableRows] using
    covers_iff (w := w) (row := tableRows[6]) (op := 7) (am := false) (em := 0) (im := 0) rfl rfl

theorem covers_loop : tableRows[7].covers w ↔
    opField w = 8 ∧ aField w = false ∧ errField w = 0 ∧ loopZeroField w = 0 := by
  simpa [tableRows, loopZeroField_eq] using
    covers_iff (w := w) (row := tableRows[7]) (op := 8) (am := true) (em := 7) (im := 0xE0) rfl rfl

theorem covers_dec : tableRows[8].covers w ↔ opField w = 9 ∧ aField w = false ∧ errField w = 0 := by
  simpa [tableRows] using
    covers_iff (w := w) (row := tableRows[8]) (op := 9) (am := true) (em := 7) (im := 0) rfl rfl

/-! ## The two directions of R73 -/

/-- The rows in the order of the table: each finds the operands in the fields it leaves free. -/
theorem exists_decode_of_covers (hrow : row ∈ tableRows) (h : row.covers w) :
    ∃ i, decode w = .ok i ∧ i.mnemonic = row.mnemonic := by
  simp only [tableRows, List.mem_cons, List.not_mem_nil, or_false] at hrow
  rcases hrow with rfl | rfl | rfl | rfl | rfl | rfl | rfl | rfl | rfl | rfl | rfl | rfl
  · obtain rfl := (covers_iff_eq rfl rfl rfl).mp h
    exact ⟨.cent, rfl, rfl⟩
  · obtain rfl := (covers_iff_eq rfl rfl rfl).mp h
    exact ⟨.cext, rfl, rfl⟩
  · obtain ⟨hop, himm, e, he⟩ := covers_dir.mp h
    obtain ⟨hwf, hcode⟩ := errOfCode_eq_some he
    exact ⟨.dir (directionOfBit (aField w)) e, decode_eq_ok_iff.mpr
      ⟨hwf, assemble_eq_iff.mpr ⟨hop, (bit_directionOfBit _).symm, hcode.symm, himm⟩⟩, rfl⟩
  · obtain ⟨hop, herr, himm⟩ := covers_lvl.mp h
    exact ⟨.lvl (levelOfBit (aField w)), decode_eq_ok_iff.mpr
      ⟨rfl, assemble_eq_iff.mpr ⟨hop, (bit_levelOfBit _).symm, herr, himm⟩⟩, rfl⟩
  · obtain ⟨hop, ha, herr⟩ := covers_dly.mp h
    exact ⟨.dly (immField w), decode_eq_ok_iff.mpr ⟨rfl, assemble_eq_iff.mpr ⟨hop, ha, herr, rfl⟩⟩, rfl⟩
  · obtain ⟨hop, ⟨e, he⟩, himm⟩ := covers_wait.mp h
    obtain ⟨hwf, hcode⟩ := errOfCode_eq_some he
    exact ⟨.wait (levelOfBit (aField w)) (immField w) e, decode_eq_ok_iff.mpr
      ⟨Bool.and_eq_true_iff.mpr ⟨hwf, himm⟩, assemble_of_errOfCode hop hcode⟩, rfl⟩
  · obtain ⟨hop, ⟨e, he⟩, himm⟩ := covers_waitm.mp h
    obtain ⟨hwf, hcode⟩ := errOfCode_eq_some he
    exact ⟨.waitm (levelOfBit (aField w)) (immField w) e, decode_eq_ok_iff.mpr
      ⟨Bool.and_eq_true_iff.mpr ⟨hwf, himm⟩, assemble_of_errOfCode hop hcode⟩, rfl⟩
  · obtain ⟨hop, ha, herr, hl⟩ := covers_loop.mp h
    exact ⟨.loop (tgtField w) (cntField w), decode_eq_ok_iff.mpr
      ⟨rfl, assemble_eq_iff.mpr ⟨hop, ha, herr, (loopImm_fields hl).symm⟩⟩, rfl⟩
  · obtain ⟨hop, ha, herr⟩ := covers_dec.mp h
    exact ⟨.dec (immField w), decode_eq_ok_iff.mpr ⟨rfl, assemble_eq_iff.mpr ⟨hop, ha, herr, rfl⟩⟩, rfl⟩
  · obtain rfl := (covers_iff_eq rfl rfl rfl).mp h
    exact ⟨.val, rfl, rfl⟩
  · obtain rfl := (covers_iff_eq rfl rfl rfl).mp h
    exact ⟨.cvt, rfl, rfl⟩
  · obtain rfl := (covers_iff_eq rfl rfl rfl).mp h
    exact ⟨.endOp, rfl, rfl⟩

theorem exists_row_of_wf {i : Instr} (h : i.wf = true) :
    ∃ row ∈ tableRows, row.mnemonic = i.mnemonic ∧ row.covers (encode i) := by
  cases i with
  | cent => exact ⟨tableRows[0], List.getElem_mem _, rfl, (covers_iff_eq rfl rfl rfl).mpr rfl⟩
  | cext => exact ⟨tableRows[1], List.getElem_mem _, rfl, (covers_iff_eq rfl rfl rfl).mpr rfl⟩
  | dir a e => exact ⟨tableRows[2], List.getElem_mem _, rfl, covers_dir.mpr (by simp [encode, errOfCode_code h])⟩
  | lvl a => exact ⟨tableRows[3], List.getElem_mem _, rfl, covers_lvl.mpr (by simp [encode])⟩
  | dly n => exact ⟨tableRows[4], List.getElem_mem _, rfl, covers_dly.mpr (by simp [encode])⟩
  | wait a n e =>
    obtain ⟨herr, himm⟩ := Bool.and_eq_true_iff.mp h
    exact ⟨tableRows[5], List.getElem_mem _, rfl, covers_wait.mpr (by simp [encode, errOfCode_code herr, himm])⟩
  | waitm a n e =>
    obtain ⟨herr, himm⟩ := Bool.and_eq_true_iff.mp h
    exact ⟨tableRows[6], List.getElem_mem _, rfl, covers_waitm.mpr (by simp [encode, errOfCode_code herr, himm])⟩
  | loop tgt cnt => exact ⟨tableRows[7], List.getElem_mem _, rfl, covers_loop.mpr (by simp [encode])⟩
  | dec n => exact ⟨tableRows[8], List.getElem_mem _, rfl, covers_dec.mpr (by simp [encode])⟩
  | val => exact ⟨tableRows[9], List.getElem_mem _, rfl, (covers_iff_eq rfl rfl rfl).mpr rfl⟩
  | cvt => exact ⟨tableRows[10], List.getElem_mem _, rfl, (covers_iff_eq rfl rfl rfl).mpr rfl⟩
  | endOp => exact ⟨tableRows[11], List.getElem_mem _, rfl, (covers_iff_eq rfl rfl rfl).mpr rfl⟩

/-- Settles O44: a row that covers a word gives the operands of a micro-operation whose word it is, and the word of
every well-formed micro-operation is covered by its row. -/
theorem decodingFollowsMatchAndMask : Obligations.DecodingFollowsMatchAndMask := by
  intro w
  refine ⟨fun row hrow hc => exists_decode_of_covers hrow hc, fun i hi => ?_⟩
  obtain ⟨hwf, rfl⟩ := decode_eq_ok_iff.mp hi
  exact exists_row_of_wf hwf

end Sys2Proof
end

section
/-! Illegal words (30_encoding.md R78) and the step that fetches a word (43_sequencer.md R152). -/

namespace Sys2Proof

variable {w : UWord}

/-! ## What each part of the decoder rejects -/

theorem requireZero_eq_error {z : Bool} {i : Instr} : (∃ r, requireZero z i = .error r) ↔ z = false := by
  cases z <;> simp [requireZero]

theorem withErr_eq_error {f : ErrorKind → Instr} :
    (∃ r, withErr w (fun e => .ok (f e)) = .error r) ↔ errOfCode (errField w) = Option.none := by
  unfold withErr
  cases errOfCode (errField w) <;> simp

theorem withTimeout_eq_error {f : Level → Count → ErrorKind → Instr} :
    (∃ r, withTimeout w f = .error r) ↔
      errOfCode (errField w) = Option.none ∨ timeoutAllowed (immField w) = false := by
  unfold withTimeout withErr
  cases errOfCode (errField w) <;> cases timeoutAllowed (immField w) <;> simp

/-! ## The list of R78 in the decoder's terms -/

theorem aZero_eq_false : aZero w = false ↔ w.toNat / 524288 % 2 ≠ 0 := by
  simp [aZero, aField_eq_decide]

theorem errZero_eq_false : errZero w = false ↔ w.toNat / 65536 % 8 ≠ 0 := by
  rw [← errField_toNat]
  simp [errZero, BitVec.toNat_eq]

theorem immZero_eq_false : immZero w = false ↔ w.toNat % 65536 ≠ 0 := by
  rw [← immField_toNat]
  simp [immZero, BitVec.toNat_eq]

theorem loopZero_eq_false : (loopZeroField w == 0) = false ↔ w.toNat % 65536 / 32 % 8 ≠ 0 := by
  rw [← loopZeroField_toNat]
  simp [BitVec.toNat_eq]

theorem errOfCode_errField_eq_none :
    errOfCode (errField w) = Option.none ↔ w.toNat / 65536 % 8 = 0 ∨ w.toNat / 65536 % 8 = 7 := by
  rw [errOfCode_eq_none_iff, ← errField_toNat]
  simp [BitVec.toNat_eq]

theorem timeoutAllowed_immField_eq_false : timeoutAllowed (immField w) = false ↔ w.toNat % 65536 = 65535 := by
  simp only [timeoutAllowed, immField_toNat, decide_eq_false_iff_not]
  omega

theorem illegalWord_iff : illegalWord w ↔
    (opField w).toNat ∈ [0x0, 0xD, 0xE, 0xF] ∨
    ((opField w).toNat ∉ [0x3, 0x4, 0x6, 0x7] ∧ aZero w = false) ∨
    ((opField w).toNat ∉ [0x3, 0x6, 0x7] ∧ errZero w = false) ∨
    ((opField w).toNat ∉ [0x5, 0x6, 0x7, 0x8, 0x9] ∧ immZero w = false) ∨
    ((opField w).toNat ∈ [0x3, 0x6, 0x7] ∧ errOfCode (errField w) = Option.none) ∨
    ((opField w).toNat ∈ [0x6, 0x7] ∧ timeoutAllowed (immField w) = false) ∨
    ((opField w).toNat = 0x8 ∧ (loopZeroField w == 0) = false) := by
  rw [aZero_eq_false, errZero_eq_false, immZero_eq_false, loopZero_eq_false, errOfCode_errField_eq_none,
    timeoutAllowed_immField_eq_false, opField_toNat, illegalWord]

theorem decode_eq_error_iff : (∃ r, decode w = .error r) ↔ illegalWord w := by
  rw [illegalWord_iff]
  unfold decode
  split
  case h_1 hop | h_2 hop | h_10 hop | h_11 hop | h_12 hop =>
    rw [requireZero_eq_error, operandsZero, Bool.and_eq_false_iff, Bool.and_eq_false_iff]
    simp [hop, or_assoc]
  case h_3 hop =>
    split
    next hz => simp [hop, withErr_eq_error, hz]
    next hz => simp [hop, hz]
  case h_4 hop | h_5 hop | h_9 hop =>
    rw [requireZero_eq_error, Bool.and_eq_false_iff]
    simp [hop]
  case h_6 hop | h_7 hop =>
    rw [withTimeout_eq_error]
    simp [hop]
  case h_8 hop =>
    rw [requireZero_eq_error, Bool.and_eq_false_iff, Bool.and_eq_false_iff]
    simp [hop, or_assoc]
  case h_13 =>
    have hlt := (opField w).isLt
    grind

end Sys2Proof

namespace Sys2Proof.Machine

variable {s : State}

/-! ## The step that fetches a word -/

/-- The step of a busy CORE with nothing due is the meaning of what `ROM[UPC]` decodes to (R152). -/
theorem step_of_decode_ok {i : Instr} (hb : s.busy = true) (ho : s.upcOver = false) (hm : dueMove s = Option.none)
    (hd : decode (romWord s.rom s.upc) = .ok i) : step s = exec i (takeInbox s) := by
  simp [step, hm, sequencerStep, hb, fetch_of_decode (s := takeInbox s) ho hd]

theorem step_of_decode_error {r : Illegal} (hb : s.busy = true) (ho : s.upcOver = false)
    (hm : dueMove s = Option.none) (hd : decode (romWord s.rom s.upc) = .error r) :
    step s = .fault .illegalMicroOp := by
  simp [step, hm, sequencerStep, hb, fetch, ho, hd]

/-- Settles O30: with nothing due the step is the Sequencer's, and the fetch decodes `ROM[UPC]`. -/
theorem stepRunsTheDecodedMicroOperation : Obligations.StepRunsTheDecodedMicroOperation := by
  intro s hb ho hm
  refine ⟨fun i hd => ?_, fun r hd => step_of_decode_error hb ho hm hd⟩
  have hstep : step s = exec i (takeInbox s) := step_of_decode_ok hb ho hm hd
  exact ⟨hstep, fun hnil => by rw [hstep, takeInbox_of_nil hnil]⟩

/-- A ROM word that decodes is not in the list of R78. -/
theorem not_illegalWord_of_decode_ok {w : UWord} {i : Instr} (h : decode w = .ok i) : ¬ illegalWord w := by
  rw [← decode_eq_error_iff, h]
  simp

/-- A word of the canonical image decodes to the micro-operation of the program (R82). -/
theorem decode_canonicalRom {a : Addr} {i : Instr} (hi : (canonicalProgram Config.defaults)[a.toNat]? = some i) :
    decode (romWord (canonicalRom Config.defaults) a) = .ok i := by
  rw [canonicalRom, romWord_romImage hi]
  exact decode_encode_canonical i (List.mem_of_getElem? hi)

/-- Settles O31: the decoder rejects the words of the list, the fetch of one faults, and the canonical words decode. -/
theorem illegalWordsAreRejected : Obligations.IllegalWordsAreRejected := by
  refine ⟨fun w => decode_eq_error_iff, fun s hb ho hm hw => ?_, fun a ha => ?_⟩
  · obtain ⟨r, hr⟩ := decode_eq_error_iff.mpr hw
    exact step_of_decode_error hb ho hm hr
  · have hlt : a.toNat < (canonicalProgram Config.defaults).length := Nat.lt_succ_of_le ha
    exact not_illegalWord_of_decode_ok (decode_canonicalRom (List.getElem?_eq_getElem hlt))

end Sys2Proof.Machine
end

section
/-! The ROM image of 30_encoding.md R82, its pseudo-instructions (R81) and the worked words (R83). -/

namespace Sys2Proof.Machine

variable {p : Config.Params} {a : Addr} {n : Nat}

/-- A word of a ROM image at any address: 0 where the program does not reach (R53, R78). -/
theorem romWord_romImage_eq_getD (prog : List Instr) (a : Addr) :
    romWord (romImage prog) a = (prog[a.toNat]?.map encode).getD 0 := by
  have hword : (romImage prog)[a.toNat]'a.isLt = (prog[a.toNat]?.map encode).getD 0 := by
    rw [romImage, Vector.getElem_ofFn]
    cases prog[a.toNat]? <;> rfl
  exact hword

/-! ## The words of other parameter values (R82) -/

/-- Bits 23:16 of a word are those above its `imm`. -/
theorem assemble_and_header (op : BitVec 4) (b : Bool) (err : BitVec 3) (imm : Count) :
    assemble op b err imm &&& 0xFF0000 = assemble op b err 0 := by
  have hmask : (0xFF0000 : UWord) = assemble 0xF true 7 0 := by decide
  rw [eq_comm, assemble_eq_iff, hmask]
  simp

/-- The parameters stand in `imm` fields alone. -/
theorem canonicalProgram_headers :
    (canonicalProgram p).map (encode · &&& 0xFF0000) =
      (canonicalProgram Config.defaults).map (encode · &&& 0xFF0000) := by
  simp only [canonicalProgram, List.map_cons, List.map_nil, encode, assemble_and_header]

/-- The parameters stand at seven addresses alone. -/
theorem canonicalProgram_getElem? (hn : n ∉ [3, 5, 7, 8, 9, 10, 12]) :
    (canonicalProgram p)[n]? = (canonicalProgram Config.defaults)[n]? := by
  rcases Nat.lt_or_ge n 17 with h | h
  · interval_cases n <;> simp [canonicalProgram] at hn ⊢
  · rw [List.getElem?_eq_none h, List.getElem?_eq_none h]

theorem romWord_canonicalRom_and_header :
    romWord (canonicalRom p) a &&& 0xFF0000 = romWord (canonicalRom Config.defaults) a &&& 0xFF0000 := by
  have hmask : ∀ o : Option Instr, (o.map encode).getD 0 &&& 0xFF0000 = (o.map (encode · &&& 0xFF0000)).getD 0 := by
    rintro (_ | i) <;> rfl
  rw [canonicalRom, canonicalRom, romWord_romImage_eq_getD, romWord_romImage_eq_getD, hmask, hmask, ← List.getElem?_map,
    ← List.getElem?_map, canonicalProgram_headers]

/-- Settles O46: the image by evaluation, the words of other parameter values by where the program has its parameters. -/
theorem canonicalImage : Obligations.CanonicalImage := by
  refine ⟨by decide, fun p a => ⟨romWord_canonicalRom_and_header, fun ha => ?_⟩⟩
  rw [canonicalRom, canonicalRom, romWord_romImage_eq_getD, romWord_romImage_eq_getD, canonicalProgram_getElem? ha]

/-! ## Pseudo-instructions and worked words (R81, R83) -/

/-- Micro-operations that stand in a program at given addresses are the words of its image there. -/
theorem map_encode_eq_map_romWord {prog is : List Instr} {as : List Addr}
    (h : is.map some = as.map fun a => prog[a.toNat]?) : is.map encode = as.map (romWord (romImage prog)) := by
  calc is.map encode = (is.map some).map fun o => (o.map encode).getD 0 := by simp
    _ = as.map (romWord (romImage prog)) := by
      rw [h, List.map_map]
      exact List.map_congr_left fun a _ => (romWord_romImage_eq_getD prog a).symm

/-- Settles O47: each pseudo-instruction stands in the canonical program at its addresses. -/
theorem pseudoInstructionsAreRomWords : Obligations.PseudoInstructionsAreRomWords := fun _ =>
  ⟨map_encode_eq_map_romWord rfl, map_encode_eq_map_romWord rfl, map_encode_eq_map_romWord rfl,
    map_encode_eq_map_romWord rfl⟩

/-- Settles O45: the two micro-operations encode to the words of R83, and so the words decode to them. -/
theorem workedEncodings : Obligations.WorkedEncodings := by
  have hwaitm : encode (.waitm .high 70 .readBitTimeout) = 0x7D0046 := by decide
  have hloop : encode (.loop 9 40) = 0x802809 := by decide
  exact ⟨hwaitm ▸ decodeOfEncode _ rfl, hwaitm, hloop ▸ decodeOfEncode _ rfl, hloop⟩

end Sys2Proof.Machine
end

section
/-! The start pulse on the line (30_encoding.md R86, 40_line_controller.md R103): START and the seven micro-operations
of the pulse, run one by one, and after them the invariant of the canonical micro-program with a count of the
micro-operations left. -/

namespace Sys2Proof.Machine

variable {s t : State}

/-! ## Runs -/

theorem core_run_add {m : Nat} (n : Nat) (h : Sys2Proof.core.run m s = .next t) :
    Sys2Proof.core.run (m + n) s = Sys2Proof.core.run n t := by
  induction m generalizing s with
  | zero =>
    cases h
    rw [Nat.zero_add]
  | succ m ih =>
    obtain ⟨s1, h1, h2⟩ := core_run_succ_eq_next h
    rw [Nat.succ_add, core_run_succ_of_step _ h1, ih h2]

/-- Idle with an empty inbox, the machine stays as it is (log 3). -/
theorem step_of_idle (hb : s.busy = false) (hin : s.inbox = []) : step s = .next s := by
  simp [step, dueMove_of_nil hin, takeInbox_of_nil hin, sequencerStep, hb]

/-- The step of a busy CORE at an address of the canonical micro-program (R82). -/
theorem step_of_canonicalProgram {i : Instr} (hrom : s.rom = canonicalRom Config.defaults) (ho : s.upcOver = false)
    (hb : s.busy = true) (hin : s.inbox = []) (hi : (canonicalProgram Config.defaults)[s.upc.toNat]? = some i) :
    step s = exec i s := by
  refine step_of_fetch hb hin (fetch_of_decode ho ?_)
  rw [hrom]
  exact decode_canonicalRom hi

/-! ## The record of the start pulse -/

/-- Of two changes at the tick of START the later one counts (R64). -/
theorem recordChange_twice (base c d : LineCond) (t : Nat) :
    recordChange base t d (recordChange base t c []) = recordChange base t d [] := by
  have hkept : earlierChanges t (recordChange base t c []) = [] := by
    unfold recordChange
    split <;> simp [earlierChanges]
  rw [recordChange, hkept]
  rfl

/-- A first change of the line is entered. -/
theorem recordChange_nil {base c : LineCond} (t : Nat) (h : c ≠ base) : recordChange base t c [] = [(t, c)] := if_neg h

/-- A later change of the line is entered. -/
theorem recordChange_cons {base c d : LineCond} {n k : Nat} {log : List (Nat × LineCond)} (hn : k ≠ n) (h : c ≠ d) :
    recordChange base n c ((k, d) :: log) = (n, c) :: (k, d) :: log := by
  simp [recordChange, earlierChanges, lastCond, hn, h]

/-! ## The start pulse, micro-operation by micro-operation -/

/-- The read that begins in `r`, inside its start pulse: the registers which the micro-operations at 0 to 6 write. -/
def inPulse (r : State) (u : Addr) (n : Nat) (e : Count) (dir : Direction) (out : Level) (calls : List CfgCall)
    (log : List (Nat × LineCond)) : State :=
  { r with
    upc := u, upcOver := false, crit := true, t := n, e := e, dir := dir, out := out, cfgLog := calls, lineLog := log }

/-- The read that begins in `r` at the end of its start pulse, both calls answered `Ok`. -/
def pulseSent (r : State) : State :=
  inPulse r 7 20040 40 .input .high [⟨20040, r.pin, .input, .ok⟩, ⟨0, r.pin, .output, .ok⟩]
    [(20040, .released), (20000, .driven .high), (0, .driven .low)]

section

variable {r : State} {u : Addr} {n : Nat} {e : Count} {dir : Direction} {out : Level} {calls : List CfgCall}
  {log : List (Nat × LineCond)}

theorem step_inPulse {i : Instr} (hrom : r.rom = canonicalRom Config.defaults) (hb : r.busy = true) (hin : r.inbox = [])
    (hi : (canonicalProgram Config.defaults)[u.toNat]? = some i) :
    step (inPulse r u n e dir out calls log) = exec i (inPulse r u n e dir out calls log) :=
  step_of_canonicalProgram hrom rfl hb hin hi

/-- `DIR Output`: the line takes whatever level `OUT` holds. -/
theorem exec_inPulse_dirOutput (h0 : r.env.cfgAt 0 = .ok) :
    exec (.dir .output .invalidConfiguration) (inPulse r 1 0 0 dir out [] []) =
      .next (inPulse r 2 0 0 .output out [⟨0, r.pin, .output, .ok⟩] (recordChange r.lineBase 0 (.driven out) [])) := by
  rw [exec_dir_of_ok (s := inPulse r 1 0 0 dir out [] []) h0]
  rfl

/-- `LVL Low` at the same tick: that level leaves no trace in the record. -/
theorem exec_inPulse_lvlLow (hbase : .driven .low ≠ r.lineBase) :
    exec (.lvl .low) (inPulse r 2 0 0 .output out calls (recordChange r.lineBase 0 (.driven out) [])) =
      .next (inPulse r 3 0 0 .output .low calls [(0, .driven .low)]) := by
  rw [← recordChange_nil 0 hbase, ← recordChange_twice r.lineBase (.driven out) (.driven .low) 0,
    exec_lvl_of_output rfl]
  rfl

/-- `DLY`: time passes, the line stays. -/
theorem exec_inPulse_dly {imm : Count} (hu : u ≠ 31) :
    exec (.dly imm) (inPulse r u n e dir out calls log) =
      .next (inPulse r (u + 1) (n + imm.toNat) imm dir out calls log) :=
  congrArg Host.Outcome.next
    (advance_eq_upcPlusOne (s := { delayUs imm.toNat (inPulse r u n e dir out calls log) with e := imm }) hu)

/-- `LVL High` at a later tick. -/
theorem exec_inPulse_lvlHigh {k : Nat} (hk : k ≠ n) :
    exec (.lvl .high) (inPulse r 4 n e .output out calls [(k, .driven .low)]) =
      .next (inPulse r 5 n e .output .high calls [(n, .driven .high), (k, .driven .low)]) := by
  rw [← recordChange_cons (base := r.lineBase) (log := []) hk (by decide), exec_lvl_of_output rfl]
  rfl

/-- `DIR Input` at a later tick: the line is released. -/
theorem exec_inPulse_dirInput {c : CfgCall} {k : Nat} (hk : k ≠ n) (h1 : r.env.cfgAt 1 = .ok) :
    exec (.dir .input .invalidConfiguration) (inPulse r 6 n e .output out [c] ((k, .driven .high) :: log)) =
      .next (inPulse r 7 n e .input out [⟨n, r.pin, .input, .ok⟩, c]
        ((n, .released) :: (k, .driven .high) :: log)) := by
  rw [← recordChange_cons (base := r.lineBase) hk (by decide),
    exec_dir_of_ok (s := inPulse r 6 n e .output out [c] ((k, .driven .high) :: log)) h1]
  rfl

theorem run_startPulse (hrom : r.rom = canonicalRom Config.defaults) (hb : r.busy = true) (hin : r.inbox = [])
    (hbase : .driven .low ≠ r.lineBase) (h0 : r.env.cfgAt 0 = .ok) (h1 : r.env.cfgAt 1 = .ok) :
    Sys2Proof.core.run 6 (inPulse r 1 0 0 dir out [] []) = .next (pulseSent r) := by
  have hstep {u n e dir out calls log i} := step_inPulse (r := r) (u := u) (n := n) (e := e) (dir := dir) (out := out)
    (calls := calls) (log := log) (i := i) hrom hb hin
  calc Sys2Proof.core.run 6 (inPulse r 1 0 0 dir out [] [])
    _ = Sys2Proof.core.run 5 (inPulse r 2 0 0 .output out [⟨0, r.pin, .output, .ok⟩]
          (recordChange r.lineBase 0 (.driven out) [])) :=
      core_run_succ_of_step 5 ((hstep rfl).trans (exec_inPulse_dirOutput h0))
    _ = Sys2Proof.core.run 4 (inPulse r 3 0 0 .output .low [⟨0, r.pin, .output, .ok⟩] [(0, .driven .low)]) :=
      core_run_succ_of_step 4 ((hstep rfl).trans (exec_inPulse_lvlLow hbase))
    _ = Sys2Proof.core.run 3 (inPulse r 4 20000 20000 .output .low [⟨0, r.pin, .output, .ok⟩] [(0, .driven .low)]) :=
      core_run_succ_of_step 3 ((hstep rfl).trans (exec_inPulse_dly (by decide)))
    _ = Sys2Proof.core.run 2 (inPulse r 5 20000 20000 .output .high [⟨0, r.pin, .output, .ok⟩]
          [(20000, .driven .high), (0, .driven .low)]) :=
      core_run_succ_of_step 2 ((hstep rfl).trans (exec_inPulse_lvlHigh (by decide)))
    _ = Sys2Proof.core.run 1 (inPulse r 6 20040 40 .output .high [⟨0, r.pin, .output, .ok⟩]
          [(20000, .driven .high), (0, .driven .low)]) :=
      core_run_succ_of_step 1 ((hstep rfl).trans (exec_inPulse_dly (by decide)))
    _ = .next (pulseSent r) := core_run_succ_of_step 0 ((hstep rfl).trans (exec_inPulse_dirInput (by decide) h1))

end

/-! ## After the start pulse -/

/-- How many micro-operations of the canonical micro-program a read has left at address `u` with `i` bits counted, if
none of them aborts (R82): of the bit loop at 9 to 11 there are `40 - i` turns left. -/
def opsLeftAt (u i : Nat) : Nat :=
  if u ≤ 8 then 134 - u else if u ≤ 11 then 134 - u - 3 * i else 17 - u

theorem opsLeftAt_succ_lt {u i : Nat} (h15 : u ≤ 15) (h11 : u ≠ 11) (hi : i ≤ 40) :
    opsLeftAt (u + 1) i < opsLeftAt u i := by
  unfold opsLeftAt
  split_ifs <;> omega

theorem opsLeftAt_epilogue_lt {u i : Nat} (h10 : u ≤ 10) (hi : i ≤ 40) : opsLeftAt 15 i < opsLeftAt u i := by
  unfold opsLeftAt
  split_ifs <;> omega

theorem opsLeftAt_loop_back_lt {i : Nat} (hi : i ≤ 39) : opsLeftAt 9 (i + 1) < opsLeftAt 11 i := by
  unfold opsLeftAt
  split_ifs <;> omega

theorem opsLeftAt_loop_through_lt {i j : Nat} (hi : i ≤ 39) : opsLeftAt 12 j < opsLeftAt 11 i := by
  unfold opsLeftAt
  split_ifs <;> omega

/-- How many micro-operations a read has left, at most; none while Idle. -/
def opsLeft (s : State) : Nat := if s.busy = true then opsLeftAt s.upc.toNat s.i.toNat else 0

theorem opsLeft_of_busy (hb : s.busy = true) : opsLeft s = opsLeftAt s.upc.toNat s.i.toNat := if_pos hb

theorem opsLeft_of_idle (hb : s.busy = false) : opsLeft s = 0 := if_neg (by simp [hb])

theorem opsLeft_le (s : State) : opsLeft s ≤ opsLeftAt s.upc.toNat s.i.toNat := by
  unfold opsLeft
  split
  · exact le_rfl
  · exact Nat.zero_le _

/-- `t` comes after `s` in a read whose start pulse is over: nothing new on the line, fewer micro-operations left. -/
structure StepsOn (s t : State) : Prop where
  inbox : t.inbox = s.inbox
  lineLog : t.lineLog = s.lineLog
  afterPulse : t.busy = true → 7 ≤ t.upc.toNat
  opsLeft_lt : opsLeft t < opsLeft s

theorem StepsOn.of_opsLeftAt_lt (hb : s.busy = true) (hin : t.inbox = s.inbox) (hlog : t.lineLog = s.lineLog)
    (h7 : 7 ≤ t.upc.toNat) (hlt : opsLeftAt t.upc.toNat t.i.toNat < opsLeftAt s.upc.toNat s.i.toNat) : StepsOn s t where
  inbox := hin
  lineLog := hlog
  afterPulse _ := h7
  opsLeft_lt := by
    rw [opsLeft_of_busy hb]
    exact (opsLeft_le t).trans_lt hlt

/-- `x` is `s` but for registers that neither the sequencer nor the record of the line is about. -/
structure SamePlace (s x : State) : Prop where
  upc : x.upc = s.upc
  i : x.i = s.i
  inbox : x.inbox = s.inbox
  lineLog : x.lineLog = s.lineLog

namespace CanonicalInv

variable {u : Nat}

theorem stepsOn_advance (h : CanonicalInv s) (hb : s.busy = true) (hu : s.upc.toNat = u) (h7 : 7 ≤ u) (h15 : u ≤ 15)
    (h11 : u ≠ 11) {x : State} (hx : SamePlace s x) : StepsOn s (advance x) := by
  have hadv : (advance x).upc.toNat = u + 1 := by
    rw [← hu, ← hx.upc]
    exact advance_upc_toNat (by rw [hx.upc]; omega)
  refine .of_opsLeftAt_lt hb hx.inbox hx.lineLog (by omega) ?_
  rw [hadv, hu, advance_i, hx.i]
  exact opsLeftAt_succ_lt h15 h11 h.index

theorem stepsOn_abort (h : CanonicalInv s) (hb : s.busy = true) (hu : s.upc.toNat = u) (h10 : u ≤ 10) {err : ErrorKind}
    {x : State} (hx : SamePlace s x) : StepsOn s (abort err x) := by
  refine .of_opsLeftAt_lt hb hx.inbox hx.lineLog (by simp [Config.epilogue]) ?_
  rw [hu, abort_i, hx.i]
  exact opsLeftAt_epilogue_lt h10 h.index

theorem exec_wait_stepsOn (h : CanonicalInv s) (hb : s.busy = true) (hu : s.upc.toNat = u) (h7 : 7 ≤ u) (h10 : u ≤ 10)
    (a : Level) (imm : Count) (err : ErrorKind) : ∃ t, exec (.wait a imm err) s = .next t ∧ StepsOn s t := by
  have hd : s.dir = .input := h.waits hb (by omega) (by omega)
  obtain ⟨k, hk⟩ | hn := seenAfter_or_neverSeen s.env.lin s.t a imm.toNat
  · exact ⟨_, exec_wait_of_seen hd hk, h.stepsOn_advance hb hu h7 (by omega) (by omega) ⟨rfl, rfl, rfl, rfl⟩⟩
  · exact ⟨_, exec_wait_of_never hd hn, h.stepsOn_abort hb hu h10 ⟨rfl, rfl, rfl, rfl⟩⟩

theorem exec_waitm_stepsOn (h : CanonicalInv s) (hb : s.busy = true) (hu : s.upc.toNat = 10) (a : Level) (imm : Count)
    (err : ErrorKind) : ∃ t, exec (.waitm a imm err) s = .next t ∧ StepsOn s t := by
  have hd : s.dir = .input := h.waits hb (by omega) (by omega)
  have hi : s.i.toNat < Config.nBits := Nat.lt_succ_of_le (h.indexLoop hb (by omega) (by omega))
  obtain ⟨k, hk⟩ | hn := seenAfter_or_neverSeen s.env.lin s.t a imm.toNat
  · exact ⟨_, exec_waitm_of_seen hd hk hi,
      h.stepsOn_advance hb hu (by decide) (by decide) (by decide) ⟨rfl, rfl, rfl, rfl⟩⟩
  · exact ⟨_, exec_waitm_of_never hd hn, h.stepsOn_abort hb hu (by decide) ⟨rfl, rfl, rfl, rfl⟩⟩

theorem exec_loop_stepsOn (h : CanonicalInv s) (hb : s.busy = true) (hu : s.upc.toNat = 11) :
    ∃ t, exec (.loop 9 40) s = .next t ∧ StepsOn s t := by
  have hi : s.i.toNat ≤ 39 := h.indexLoop hb (by omega) (by omega)
  rcases Nat.lt_or_ge (s.i.toNat + 1) 40 with hlt | hge
  · have hsucc : (s.i + 1).toNat = s.i.toNat + 1 := by bv_omega
    refine ⟨_, exec_loop_back (by omega) hlt, .of_opsLeftAt_lt hb rfl rfl (by simp) ?_⟩
    rw [setUpc_upc, setUpc_i, hsucc, hu]
    exact opsLeftAt_loop_back_lt hi
  · have hadv : (advance { s with i := s.i + 1 }).upc.toNat = 12 := by
      rw [advance_upc_toNat] <;> simp [hu]
    refine ⟨_, exec_loop_through (by omega) hge, .of_opsLeftAt_lt hb rfl rfl (by omega) ?_⟩
    rw [hadv, hu]
    exact opsLeftAt_loop_through_lt hi

theorem exec_endOp_stepsOn (hb : s.busy = true) (hu : s.upc.toNat = 16) :
    ∃ t, exec .endOp s = .next t ∧ StepsOn s t := by
  refine ⟨finish s, rfl, rfl, rfl, nofun, ?_⟩
  rw [opsLeft_of_idle (finish_busy s), opsLeft_of_busy hb, hu]
  exact Nat.one_pos

/-- Every micro-operation after the start pulse goes on, and leaves the line as it is. -/
theorem exec_stepsOn (h : CanonicalInv s) (hb : s.busy = true) (h7 : 7 ≤ s.upc.toNat) {i : Instr}
    (hi : (canonicalProgram Config.defaults)[s.upc.toNat]? = some i) : ∃ t, exec i s = .next t ∧ StepsOn s t := by
  have h16 := h.inRom.2
  generalize hu : s.upc.toNat = u at hi h7 h16
  have hfalls {x : State} (h12 : 12 ≤ u) (h15 : u ≤ 15) (hx : SamePlace s x) : StepsOn s (advance x) :=
    h.stepsOn_advance hb hu h7 h15 (by omega) hx
  interval_cases u <;> obtain rfl := Option.some.inj hi
  · exact h.exec_wait_stepsOn hb hu (by decide) (by decide) _ _ _
  · exact h.exec_wait_stepsOn hb hu (by decide) (by decide) _ _ _
  · exact h.exec_wait_stepsOn hb hu (by decide) (by decide) _ _ _
  · exact h.exec_waitm_stepsOn hb hu _ _ _
  · exact h.exec_loop_stepsOn hb hu
  · exact ⟨_, rfl, hfalls (by decide) (by decide) ⟨rfl, rfl, rfl, rfl⟩⟩
  · exact ⟨_, rfl, hfalls (by decide) (by decide) ⟨rfl, rfl, rfl, rfl⟩⟩
  · exact ⟨_, rfl, hfalls (by decide) (by decide) ⟨rfl, rfl, rfl, rfl⟩⟩
  · exact ⟨_, rfl, hfalls (by decide) (by decide) ⟨rfl, rfl, rfl, rfl⟩⟩
  · exact exec_endOp_stepsOn hb hu

theorem step_stepsOn (h : CanonicalInv s) (hb : s.busy = true) (hin : s.inbox = []) (h7 : 7 ≤ s.upc.toNat) :
    ∃ t, step s = .next t ∧ StepsOn s t := by
  obtain ⟨i, hi, hf⟩ := h.fetch_eq
  rw [step_of_fetch hb hin hf]
  exact h.exec_stepsOn hb h7 hi

/-- A read whose start pulse is over ends with the record of the line as it was; the steps that are left are idle. -/
theorem run_afterPulse {n : Nat} (h : CanonicalInv s) (hin : s.inbox = []) (h7 : s.busy = true → 7 ≤ s.upc.toNat)
    (hn : opsLeft s ≤ n) : ∃ t, Sys2Proof.core.run n s = .next t ∧ t.busy = false ∧ t.lineLog = s.lineLog := by
  induction n generalizing s with
  | zero =>
    refine ⟨s, core_run_zero s, eq_false_of_ne_true fun hb => ?_, rfl⟩
    obtain ⟨t, -, ht⟩ := h.step_stepsOn hb hin (h7 hb)
    exact absurd (ht.opsLeft_lt.trans_le hn) (Nat.not_lt_zero _)
  | succ n ih =>
    cases hb : s.busy with
    | false =>
      rw [core_run_succ_of_step n (step_of_idle hb hin)]
      exact ih h hin h7 ((opsLeft_of_idle hb).trans_le (Nat.zero_le n))
    | true =>
      obtain ⟨t, hstep, ht⟩ := h.step_stepsOn hb hin (h7 hb)
      rw [core_run_succ_of_step n hstep, ← ht.lineLog]
      exact ih (stepKeepsTheCanonicalInvariant s t h hstep) (ht.inbox.trans hin) ht.afterPulse
        (Nat.le_of_lt_succ (ht.opsLeft_lt.trans_le hn))

end CanonicalInv

/-! ## The read -/

/-- The invariant holds at the end of the start pulse, whatever the line and the critical section were before START. -/
theorem canonicalInv_pulseSent {pin : PinId} {env : Env} (hrom : s.rom = canonicalRom Config.defaults) :
    CanonicalInv (pulseSent (startRead pin env s)) :=
  have hbefore : BeforeVal (pulseSent (startRead pin env s)) :=
    { rom := hrom, upcOver := rfl, busy := rfl, done := rfl, err := rfl, hum := rfl, tmp := rfl, chk := rfl
      elapsed := by simp [pulseSent, inPulse] }
  hbefore.waitsForLine le_rfl (by simp [pulseSent, inPulse]) rfl rfl rfl (fun _ => rfl) nofun nofun (by
    rintro k (hk | ⟨-, hk⟩)
    · exact absurd hk (Nat.not_lt_zero _)
    · cases hk)

/-- START and `CENT`, and the start pulse after them. -/
theorem run_start {pin : PinId} {env : Env} (hrom : s.rom = canonicalRom Config.defaults) (hb : s.busy = false)
    (hin : s.inbox = [⟨0, .start pin env⟩]) (hline : s.lineCond ≠ .driven .low) (h0 : env.cfgAt 0 = .ok)
    (h1 : env.cfgAt 1 = .ok) : Sys2Proof.core.run 8 s = .next (pulseSent (startRead pin env (takeInbox s))) := by
  have hempty : (startRead pin env (takeInbox s)).inbox = [] := by simp [hin, inboxAfter]
  have hstart : step s = .next (startRead pin env (takeInbox s)) := by
    simp [step, (dueMove_of_cons hin).1, makeMove, hb]
  have hcent : step (startRead pin env (takeInbox s)) =
      .next (inPulse (startRead pin env (takeInbox s)) 1 0 0 s.dir s.out [] []) :=
    step_of_canonicalProgram (i := .cent) hrom rfl rfl hempty rfl
  rw [core_run_succ_of_step 7 hstart, core_run_succ_of_step 6 hcent]
  exact run_startPulse hrom rfl hempty hline.symm h0 h1

/-- Settles O16: after the eight steps of START and the pulse, the read ends within the 127 that are left, with the record
as the pulse made it. -/
theorem startPulseIsOnTheLine : Obligations.StartPulseIsOnTheLine := by
  intro s pin env hrom hb hin hline h0 h1
  have hpulse := run_start hrom hb hin hline h0 h1
  refine ⟨⟨_, hpulse, rfl, rfl, rfl, rfl⟩, ?_⟩
  have hinv : CanonicalInv (pulseSent (startRead pin env (takeInbox s))) := canonicalInv_pulseSent hrom
  have hempty : (pulseSent (startRead pin env (takeInbox s))).inbox = [] := by simp [pulseSent, inPulse, hin, inboxAfter]
  obtain ⟨t, hrun, hidle, hlog⟩ := hinv.run_afterPulse (n := 127) hempty (fun _ => le_rfl) le_rfl
  exact ⟨t, (core_run_add 127 hpulse).trans hrun, hidle, congrArg List.reverse hlog⟩

end Sys2Proof.Machine
end

section
/-! The Line Controller (40_line_controller.md R95 to R103): `DIR`, `LVL` and the reading of the line, the record of the
`Configure` calls (log 13), and the record of the line (log 14). -/

namespace Sys2Proof.Machine

variable {i : Instr} {s t : State}

/-! ## The records as lists -/

/-- A change at `n` keeps a record that is not ahead of `n` in the order of its ticks. -/
theorem pairwise_recordChange {base c : LineCond} {n : Nat} {log : List (Nat × LineCond)}
    (hr : log.Pairwise fun x y => y.1 < x.1) (hp : ∀ x ∈ log, x.1 ≤ n) :
    (recordChange base n c log).Pairwise fun x y => y.1 < x.1 := by
  obtain ⟨hbefore, hkept⟩ := earlierChanges_before hr hp
  unfold recordChange
  split
  · exact hkept
  · exact List.pairwise_cons.mpr ⟨hbefore, hkept⟩

/-- What is entered is a change: the condition the line is left in by the earlier ones is not entered again. -/
theorem changesDiffer_recordChange {base c : LineCond} {n : Nat} {log : List (Nat × LineCond)}
    (h : changesDiffer base log) : changesDiffer base (recordChange base n c log) := by
  have hkept : changesDiffer base (earlierChanges n log) := changesDiffer_earlierChanges h
  unfold recordChange
  split
  · exact hkept
  · exact ⟨‹_›, hkept⟩

/-! ## What a micro-operation does to the line and to `T` -/

/-- What a micro-operation can do to the line and its record (R103, R64): it leaves both as they are, and time may pass, or
it enters the line's new condition at the present tick. -/
inductive LineMove (s t : State) : Prop
  | kept (hbase : t.lineBase = s.lineBase) (hlog : t.lineLog = s.lineLog) (hcond : t.lineCond = s.lineCond)
      (ht : s.t ≤ t.t)
  | noted (hbase : t.lineBase = s.lineBase) (hlog : t.lineLog = recordChange s.lineBase s.t t.lineCond s.lineLog)
      (ht : t.t = s.t)

theorem exec_lineMove (h : exec i s = .next t) : LineMove s t := by
  cases i with
  | cent => obtain rfl := execCent_cases h; exact .kept rfl rfl rfl le_rfl
  | cext => obtain rfl := execCext_cases h; exact .kept rfl rfl rfl le_rfl
  | dir _ _ =>
    obtain ⟨-, rfl⟩ | ⟨-, rfl⟩ := execDir_cases h
    · exact .noted rfl rfl rfl
    · exact .kept rfl rfl rfl le_rfl
  | lvl _ => obtain ⟨-, rfl⟩ := execLvl_cases h; exact .noted rfl rfl rfl
  | dly _ => obtain rfl := execDly_cases h; exact .kept rfl rfl rfl (Nat.le_add_right _ _)
  | wait _ _ _ =>
    obtain ⟨-, ⟨_, -, rfl⟩ | ⟨-, rfl⟩⟩ := execWait_cases h
    · exact .kept rfl rfl rfl (Nat.le_add_right _ _)
    · exact .kept rfl rfl rfl (Nat.le_add_right _ _)
  | waitm _ _ _ =>
    obtain ⟨-, ⟨_, _, -, rfl⟩ | ⟨-, rfl⟩⟩ := execWaitm_cases h
    · exact .kept rfl rfl rfl (Nat.le_add_right _ _)
    · exact .kept rfl rfl rfl (Nat.le_add_right _ _)
  | loop _ _ =>
    obtain ⟨-, ⟨-, rfl⟩ | ⟨-, rfl⟩⟩ := execLoop_cases h
    · exact .kept rfl rfl rfl le_rfl
    · exact .kept rfl rfl rfl le_rfl
  | dec _ => obtain rfl := execDec_cases h; exact .kept rfl rfl rfl le_rfl
  | val => obtain rfl := execVal_cases h; exact .kept rfl rfl rfl le_rfl
  | cvt => obtain rfl := execCvt_cases h; exact .kept rfl rfl rfl le_rfl
  | endOp => obtain rfl := execEnd_cases h; exact .kept rfl rfl rfl le_rfl

/-- `T` never goes back in a micro-operation (R230). -/
theorem exec_t_le (h : exec i s = .next t) : s.t ≤ t.t := by
  cases exec_lineMove h with
  | kept _ _ _ ht => exact ht
  | noted _ _ ht => exact ht.ge

/-! ## The record of the line -/

/-- The record of a read that begins is right: empty, on the line as it is. -/
theorem LineRecordInv.of_empty (hbase : s.lineBase = s.lineCond) (hlog : s.lineLog = []) : LineRecordInv s where
  last := by rw [hlog]; exact hbase
  past := by simp [hlog]
  rising := by simp [hlog]
  changes := by rw [hlog]; trivial

theorem LineRecordInv.of_lineMove (h : LineRecordInv s) (hm : LineMove s t) : LineRecordInv t := by
  cases hm with
  | kept hbase hlog hcond ht =>
    exact
      { last := by rw [hbase, hlog, hcond, h.last]
        past := fun x hx => (h.past x (hlog ▸ hx)).trans ht
        rising := hlog ▸ h.rising
        changes := by rw [hbase, hlog]; exact h.changes }
  | noted hbase hlog ht =>
    exact
      { last := by rw [hbase, hlog, lastCond_recordChange]
        past := fun x hx => by
          rw [hlog] at hx
          rw [ht]
          obtain rfl | hx := mem_recordChange hx
          · exact le_rfl
          · exact h.past x hx
        rising := by rw [hlog]; exact pairwise_recordChange h.rising h.past
        changes := by rw [hbase, hlog]; exact changesDiffer_recordChange h.changes }

/-- Settles O14: START and `rst` begin an empty record, and a micro-operation keeps the record or enters a change in it. -/
theorem stepKeepsTheLineRecord : Obligations.StepKeepsTheLineRecord := by
  intro s t h hstep
  have htake : LineRecordInv (takeInbox s) := { h with }
  obtain ⟨p, v, -, -, rfl⟩ | ⟨-, rfl⟩ | ⟨-, -, rfl⟩ | ⟨-, -, rfl⟩ | ⟨-, -, i, -, he⟩ := step_cases hstep
  · exact .of_empty rfl rfl
  · exact .of_empty rfl rfl
  · exact htake
  · exact htake
  · exact htake.of_lineMove (exec_lineMove he)

/-- Settles O15: the record of reset is empty and its line released. -/
theorem lineRecordHoldsAtReset : Obligations.LineRecordHoldsAtReset := .of_empty rfl rfl

/-! ## The record of the `Configure` calls -/

theorem CallsInThePast.of_empty (h : s.cfgLog = []) : CallsInThePast s := by simp [CallsInThePast, h]

/-- A micro-operation enters a call at the present tick or none, and `T` does not go back. -/
theorem CallsInThePast.exec (hp : CallsInThePast s) (h : exec i s = .next t) : CallsInThePast t := by
  intro c hc
  refine le_trans ?_ (exec_t_le h)
  by_cases hi : ∃ a e, i = .dir a e
  · obtain ⟨a, e, rfl⟩ := hi
    rw [exec_dir_cfgLog h] at hc
    obtain rfl | hc := List.mem_cons.mp hc
    · exact le_rfl
    · exact hp c hc
  · rw [exec_cfgLog_of_ne_dir h fun a e he => hi ⟨a, e, he⟩] at hc
    exact hp c hc

/-- Settles O12: START and `rst` empty the record of calls. -/
theorem stepKeepsCallsInThePast : Obligations.StepKeepsCallsInThePast := by
  intro s t h hstep
  have htake : CallsInThePast (takeInbox s) := h
  obtain ⟨p, v, -, -, rfl⟩ | ⟨-, rfl⟩ | ⟨-, -, rfl⟩ | ⟨-, -, rfl⟩ | ⟨-, -, i, -, he⟩ := step_cases hstep
  · exact .of_empty rfl
  · exact .of_empty rfl
  · exact htake
  · exact htake
  · exact htake.exec he

/-- Settles O13: the record of calls is empty at reset. -/
theorem callsInThePastHoldsAtReset : Obligations.CallsInThePastHoldsAtReset :=
  ⟨.of_empty rfl, dirReq_of_nil rfl⟩

/-! ## `DIR`, `LVL` and the reading of the line -/

theorem lineCond_of_output (h : s.dir = .output) : s.lineCond = .driven s.out := by simp [State.lineCond, h]

theorem lineCond_of_input (h : s.dir = .input) : s.lineCond = .released := by simp [State.lineCond, h]

/-- Below address 31 the records play no part in where a micro-operation falls through to. -/
theorem withoutRecords_advance {x y : State} (hxy : x.withoutRecords = y.withoutRecords) (h31 : y.upc ≠ 31) :
    (advance x).withoutRecords = (upcPlusOne y).withoutRecords :=
  calc (advance x).withoutRecords
    _ = advance x.withoutRecords := rfl
    _ = advance y.withoutRecords := congrArg advance hxy
    _ = (advance y).withoutRecords := rfl
    _ = (upcPlusOne y).withoutRecords := congrArg State.withoutRecords (advance_eq_upcPlusOne h31)

/-- Settles O8: by the answer of the call, and on `Ok` by the direction that is applied. -/
theorem dirAppliesTheDirectionOrAborts : Obligations.DirAppliesTheDirectionOrAborts := by
  intro a err s _
  refine ⟨fun hc h31 => ⟨_, exec_dir_of_ok hc, withoutRecords_advance rfl h31, ?_⟩,
    fun hc => ⟨_, exec_dir_of_configError hc, rfl, rfl⟩⟩
  cases a with
  | output => exact lineCond_of_output rfl
  | input => exact lineCond_of_input rfl

/-- Settles O9: by the direction. -/
theorem lvlDrivesTheLine : Obligations.LvlDrivesTheLine := fun _ _ =>
  ⟨fun hd h31 => ⟨_, exec_lvl_of_output hd, withoutRecords_advance rfl h31, lineCond_of_output hd⟩,
    exec_lvl_of_input⟩

/-- Settles O21: by the direction; the wait reads the line first. -/
theorem lineIsReadWhileInputOnly : Obligations.LineIsReadWhileInputOnly := fun _ =>
  ⟨getLevel_of_input, getLevel_of_output, fun _ _ _ hd => ⟨exec_wait_of_output hd, exec_waitm_of_output hd⟩⟩

end Sys2Proof.Machine
end

section
/-! The pin at the end of a read (40_line_controller.md R104), for every parameter set of the canonical micro-program:
START and the start pulse are run one by one up to the second `DIR`, whatever the two `Configure` calls answer; from there
to the end of the read no micro-operation touches `DIR` and `OUT`. -/

namespace Sys2Proof.Machine

variable {p : Config.Params} {s t : State}

/-- The step of a busy CORE at an address of the canonical micro-program with any parameters (R82). -/
theorem step_of_canonicalRom {i : Instr} (hp : p.wf = true) (hrom : s.rom = canonicalRom p) (ho : s.upcOver = false)
    (hb : s.busy = true) (hin : s.inbox = []) (hi : (canonicalProgram p)[s.upc.toNat]? = some i) :
    step s = exec i s := by
  refine step_of_fetch hb hin (fetch_of_decode ho ?_)
  rw [hrom, canonicalRom, romWord_romImage hi]
  exact decodeOfEncode i (canonicalProgram_wf hp i (List.mem_of_getElem? hi))

/-! ## After the start pulse, or after an abort in it -/

/-- A read at address 7 or above of the canonical micro-program, or over: the line is released while it is read, and the
index counts the bits. -/
structure PulseOver (p : Config.Params) (s : State) : Prop where
  rom : s.rom = canonicalRom p
  inbox : s.inbox = []
  upcOver : s.upcOver = false
  address : s.busy = true → 7 ≤ s.upc.toNat ∧ s.upc.toNat ≤ 16
  index : s.i.toNat ≤ 40
  indexLoop : s.busy = true → s.upc.toNat ≤ 11 → s.i.toNat ≤ 39
  waits : s.busy = true → s.upc.toNat ≤ 14 → s.dir = .input

/-- `t` comes after `s` in such a read: the pin is as it was, and fewer micro-operations are left. -/
structure GoesOn (p : Config.Params) (s t : State) : Prop where
  pulseOver : PulseOver p t
  dir : t.dir = s.dir
  out : t.out = s.out
  opsLeft_lt : opsLeft t < opsLeft s

/-- `x` is `s` but for registers that neither the sequencer nor the pin is about. -/
structure SameRead (s x : State) : Prop where
  rom : x.rom = s.rom := by rfl
  inbox : x.inbox = s.inbox := by rfl
  busy : x.busy = s.busy := by rfl
  upc : x.upc = s.upc := by rfl
  i : x.i = s.i := by rfl
  dir : x.dir = s.dir := by rfl
  out : x.out = s.out := by rfl

namespace PulseOver

variable {u : Nat}

theorem opsLeft_lt_of_opsLeftAt_lt (hb : s.busy = true)
    (hlt : opsLeftAt t.upc.toNat t.i.toNat < opsLeftAt s.upc.toNat s.i.toNat) : opsLeft t < opsLeft s := by
  rw [opsLeft_of_busy hb]
  exact (opsLeft_le t).trans_lt hlt

/-- A micro-operation that falls through from `u`, which is not the `LOOP`. -/
theorem goesOn_advance (h : PulseOver p s) (hb : s.busy = true) (hu : s.upc.toNat = u) (h15 : u ≤ 15) (h11 : u ≠ 11)
    {x : State} (hx : SameRead s x) : GoesOn p s (advance x) := by
  have h7 := (h.address hb).1
  have hxu : x.upc.toNat = u := by rw [hx.upc, hu]
  have hadv : (advance x).upc.toNat = u + 1 := hxu ▸ advance_upc_toNat (by omega)
  have hi : (advance x).i = s.i := hx.i
  have hover : PulseOver p (advance x) :=
    { rom := hx.rom.trans h.rom
      inbox := hx.inbox.trans h.inbox
      upcOver := advance_upcOver_of_lt (by omega)
      address := fun _ => by omega
      index := by rw [hi]; exact h.index
      indexLoop := fun _ _ => by rw [hi]; exact h.indexLoop hb (by omega)
      waits := fun _ _ => hx.dir.trans (h.waits hb (by omega)) }
  refine ⟨hover, hx.dir, hx.out, opsLeft_lt_of_opsLeftAt_lt hb ?_⟩
  rw [hadv, hu, hi]
  exact opsLeftAt_succ_lt h15 h11 h.index

/-- An abort goes to `EPILOGUE` (R160), where nothing more is asked of the line. -/
theorem of_abort {e : ErrorKind} (hrom : s.rom = canonicalRom p) (hin : s.inbox = []) (hi : s.i.toNat ≤ 40) :
    PulseOver p (abort e s) where
  rom := hrom
  inbox := hin
  upcOver := rfl
  address _ := by simp [Config.epilogue]
  index := hi
  indexLoop _ h11 := by simp [Config.epilogue] at h11
  waits _ h14 := by simp [Config.epilogue] at h14

theorem goesOn_abort (h : PulseOver p s) (hb : s.busy = true) (h10 : s.upc.toNat ≤ 10) {e : ErrorKind} {x : State}
    (hx : SameRead s x) : GoesOn p s (abort e x) where
  pulseOver := .of_abort (hx.rom.trans h.rom) (hx.inbox.trans h.inbox) (by rw [hx.i]; exact h.index)
  dir := hx.dir
  out := hx.out
  opsLeft_lt := opsLeft_lt_of_opsLeftAt_lt hb (by
    rw [abort_i, hx.i]
    exact opsLeftAt_epilogue_lt h10 h.index)

theorem exec_wait_goesOn (h : PulseOver p s) (hb : s.busy = true) (hu : s.upc.toNat = u) (h10 : u ≤ 10) (a : Level)
    (n : Count) (e : ErrorKind) : ∃ t, exec (.wait a n e) s = .next t ∧ GoesOn p s t := by
  have hd : s.dir = .input := h.waits hb (by omega)
  obtain ⟨k, hk⟩ | hn := seenAfter_or_neverSeen s.env.lin s.t a n.toNat
  · exact ⟨_, exec_wait_of_seen hd hk, h.goesOn_advance hb hu (by omega) (by omega) {}⟩
  · exact ⟨_, exec_wait_of_never hd hn, h.goesOn_abort hb (hu.trans_le h10) {}⟩

theorem exec_waitm_goesOn (h : PulseOver p s) (hb : s.busy = true) (hu : s.upc.toNat = u) (h10 : u ≤ 10) (a : Level)
    (n : Count) (e : ErrorKind) : ∃ t, exec (.waitm a n e) s = .next t ∧ GoesOn p s t := by
  have hd : s.dir = .input := h.waits hb (by omega)
  have hi : s.i.toNat < Config.nBits := Nat.lt_succ_of_le (h.indexLoop hb (by omega))
  obtain ⟨k, hk⟩ | hn := seenAfter_or_neverSeen s.env.lin s.t a n.toNat
  · exact ⟨_, exec_waitm_of_seen hd hk hi, h.goesOn_advance hb hu (by omega) (by omega) {}⟩
  · exact ⟨_, exec_waitm_of_never hd hn, h.goesOn_abort hb (hu.trans_le h10) {}⟩

theorem goesOn_loopBack (h : PulseOver p s) (hb : s.busy = true) (hu : s.upc.toNat = 11) (hlt : s.i.toNat + 1 < 40) :
    GoesOn p s (setUpc 9 { s with i := s.i + 1 }) := by
  have hsucc : (s.i + 1).toNat = s.i.toNat + 1 := by bv_omega
  have hover : PulseOver p (setUpc 9 { s with i := s.i + 1 }) :=
    { rom := h.rom
      inbox := h.inbox
      upcOver := rfl
      address := fun _ => by simp
      index := hsucc.trans_le (by omega)
      indexLoop := fun _ _ => hsucc.trans_le (by omega)
      waits := fun _ _ => h.waits hb (by omega) }
  refine ⟨hover, rfl, rfl, opsLeft_lt_of_opsLeftAt_lt hb ?_⟩
  rw [setUpc_upc, setUpc_i, hsucc, hu]
  exact opsLeftAt_loop_back_lt (by omega)

theorem goesOn_loopThrough (h : PulseOver p s) (hb : s.busy = true) (hu : s.upc.toNat = 11) :
    GoesOn p s (advance { s with i := s.i + 1 }) := by
  have h39 : s.i.toNat ≤ 39 := h.indexLoop hb (by omega)
  have hsucc : (s.i + 1).toNat = s.i.toNat + 1 := by bv_omega
  have hadv : (advance { s with i := s.i + 1 }).upc.toNat = 12 := by
    rw [advance_upc_toNat] <;> simp [hu]
  have hover : PulseOver p (advance { s with i := s.i + 1 }) :=
    { rom := h.rom
      inbox := h.inbox
      upcOver := advance_upcOver_of_lt (hu.trans_lt (by decide))
      address := fun _ => by omega
      index := hsucc.trans_le (by omega)
      indexLoop := fun _ _ => by omega
      waits := fun _ _ => h.waits hb (by omega) }
  refine ⟨hover, rfl, rfl, opsLeft_lt_of_opsLeftAt_lt hb ?_⟩
  rw [hadv, hu]
  exact opsLeftAt_loop_through_lt h39

theorem exec_loop_goesOn (h : PulseOver p s) (hb : s.busy = true) (hu : s.upc.toNat = 11) :
    ∃ t, exec (.loop 9 40) s = .next t ∧ GoesOn p s t := by
  have h39 : s.i.toNat ≤ 39 := h.indexLoop hb (by omega)
  rcases Nat.lt_or_ge (s.i.toNat + 1) 40 with hlt | hge
  · exact ⟨_, exec_loop_back (by omega) hlt, h.goesOn_loopBack hb hu hlt⟩
  · exact ⟨_, exec_loop_through (by omega) hge, h.goesOn_loopThrough hb hu⟩

theorem exec_endOp_goesOn (h : PulseOver p s) (hb : s.busy = true) (hu : s.upc.toNat = 16) :
    ∃ t, exec .endOp s = .next t ∧ GoesOn p s t := by
  refine ⟨finish s, rfl, ⟨h.rom, h.inbox, rfl, nofun, h.index, nofun, nofun⟩, rfl, rfl, ?_⟩
  rw [opsLeft_of_idle (finish_busy s), opsLeft_of_busy hb, hu]
  exact Nat.one_pos

/-- Every micro-operation from address 7 on completes, and leaves the pin as it is. -/
theorem exec_goesOn (h : PulseOver p s) (hb : s.busy = true) {i : Instr}
    (hi : (canonicalProgram p)[s.upc.toNat]? = some i) : ∃ t, exec i s = .next t ∧ GoesOn p s t := by
  obtain ⟨h7, h16⟩ := h.address hb
  generalize hu : s.upc.toNat = u at hi h7 h16
  have hfalls {x : State} (h15 : u ≤ 15) (h11 : u ≠ 11) (hx : SameRead s x) : GoesOn p s (advance x) :=
    h.goesOn_advance hb hu h15 h11 hx
  interval_cases u <;> obtain rfl := Option.some.inj hi
  · exact h.exec_wait_goesOn hb hu (by decide) _ _ _
  · exact h.exec_wait_goesOn hb hu (by decide) _ _ _
  · exact h.exec_wait_goesOn hb hu (by decide) _ _ _
  · exact h.exec_waitm_goesOn hb hu (by decide) _ _ _
  · exact h.exec_loop_goesOn hb hu
  · exact ⟨_, rfl, hfalls (by decide) (by decide) {}⟩
  · exact ⟨_, rfl, hfalls (by decide) (by decide) {}⟩
  · exact ⟨_, rfl, hfalls (by decide) (by decide) {}⟩
  · exact ⟨_, rfl, hfalls (by decide) (by decide) {}⟩
  · exact h.exec_endOp_goesOn hb hu

theorem step_goesOn (hp : p.wf = true) (h : PulseOver p s) (hb : s.busy = true) :
    ∃ t, step s = .next t ∧ GoesOn p s t := by
  have hlt : s.upc.toNat < (canonicalProgram p).length := Nat.lt_succ_of_le (h.address hb).2
  have hi := List.getElem?_eq_getElem hlt
  rw [step_of_canonicalRom hp h.rom h.upcOver hb h.inbox hi]
  exact h.exec_goesOn hb hi

/-- Such a read ends, with the pin as it is; the steps that are left are idle (log 3). -/
theorem run_ends {n : Nat} (hp : p.wf = true) (h : PulseOver p s) (hn : opsLeft s ≤ n) :
    ∃ t, Sys2Proof.core.run n s = .next t ∧ t.busy = false ∧ t.dir = s.dir ∧ t.out = s.out := by
  induction n generalizing s with
  | zero =>
    refine ⟨s, core_run_zero s, eq_false_of_ne_true fun hb => ?_, rfl, rfl⟩
    obtain ⟨t, -, ht⟩ := h.step_goesOn hp hb
    exact absurd (ht.opsLeft_lt.trans_le hn) (Nat.not_lt_zero _)
  | succ n ih =>
    cases hb : s.busy with
    | false =>
      rw [core_run_succ_of_step n (step_of_idle hb h.inbox)]
      exact ih h ((opsLeft_of_idle hb).trans_le (Nat.zero_le n))
    | true =>
      obtain ⟨t, hstep, ht⟩ := h.step_goesOn hp hb
      rw [core_run_succ_of_step n hstep, ← ht.dir, ← ht.out]
      exact ih ht.pulseOver (Nat.le_of_lt_succ (ht.opsLeft_lt.trans_le hn))

end PulseOver

/-! ## The start pulse with any parameters -/

/-- `r` is a state in which a read of the canonical micro-program begins, with nothing of the host due in it. -/
structure ReadBegins (p : Config.Params) (r : State) : Prop where
  rom : r.rom = canonicalRom p
  busy : r.busy = true
  inbox : r.inbox = []
  i : r.i = 0

/-- `s` is the read that begins in `r`, inside its start pulse at address `u` after `k` `Configure` calls, with `DIR` and
`OUT` as given, whatever its tick and its records are. -/
def InPulseAt (r : State) (u : Addr) (k : Nat) (dir : Direction) (out : Level) (s : State) : Prop :=
  ∃ n e calls log, calls.length = k ∧ s = inPulse r u n e dir out calls log

/-- What R104 says of the pin after the start pulse, and of the end of the read. -/
def PinRestored (env : Env) (s : State) : Prop :=
  (s.dir = .output ↔ env.cfgAt 0 = .ok ∧ env.cfgAt 1 = .configError) ∧ (s.dir = .output → s.out = .high)

theorem PinRestored.of_input {env : Env} (hd : s.dir = .input)
    (hc : ¬(env.cfgAt 0 = .ok ∧ env.cfgAt 1 = .configError)) : PinRestored env s := by
  simp [PinRestored, hd, hc]

theorem PinRestored.of_output {env : Env} (hout : s.out = .high) (hd : s.dir = .output) (h0 : env.cfgAt 0 = .ok)
    (h1 : env.cfgAt 1 = .configError) : PinRestored env s := by
  simp [PinRestored, hd, hout, h0, h1]

theorem PinRestored.congr {env : Env} (h : PinRestored env s) (hd : t.dir = s.dir) (hout : t.out = s.out) :
    PinRestored env t := by
  unfold PinRestored
  rw [hd, hout]
  exact h

/-- The read stands in `s` where its start pulse is over, with the pin of R104 and the 127 micro-operations left that the
135 steps allow for. -/
structure PulseEnds (p : Config.Params) (env : Env) (s : State) : Prop where
  pulseOver : PulseOver p s
  pin : PinRestored env s
  opsLeft_le : opsLeft s ≤ 127

namespace InPulseAt

variable {r : State} {u : Addr} {k : Nat} {dir : Direction} {out : Level}

theorem step_eq (hp : p.wf = true) (hr : ReadBegins p r) (hs : InPulseAt r u k dir out s) {i : Instr}
    (hi : (canonicalProgram p)[u.toNat]? = some i) : step s = exec i s := by
  obtain ⟨n, e, calls, log, -, rfl⟩ := hs
  exact step_of_canonicalRom hp hr.rom rfl hr.busy hr.inbox hi

theorem exec_dir_ok (hs : InPulseAt r u k dir out s) (hu : u ≠ 31) (hc : r.env.cfgAt k = .ok) (a : Direction)
    (x : ErrorKind) : ∃ t, exec (.dir a x) s = .next t ∧ InPulseAt r (u + 1) (k + 1) a out t := by
  obtain ⟨n, e, calls, log, rfl, rfl⟩ := hs
  exact ⟨_, exec_dir_of_ok hc, n, e, ⟨n, r.pin, a, .ok⟩ :: calls, _, rfl, advance_eq_upcPlusOne (by exact hu)⟩

theorem exec_lvl (hs : InPulseAt r u k .output out s) (hu : u ≠ 31) (a : Level) :
    ∃ t, exec (.lvl a) s = .next t ∧ InPulseAt r (u + 1) k .output a t := by
  obtain ⟨n, e, calls, log, rfl, rfl⟩ := hs
  exact ⟨_, exec_lvl_of_output rfl, n, e, calls, _, rfl, advance_eq_upcPlusOne (by exact hu)⟩

theorem exec_dly (hs : InPulseAt r u k dir out s) (hu : u ≠ 31) (m : Count) :
    ∃ t, exec (.dly m) s = .next t ∧ InPulseAt r (u + 1) k dir out t := by
  obtain ⟨n, e, calls, log, rfl, rfl⟩ := hs
  exact ⟨_, exec_inPulse_dly hu, n + m.toNat, m, calls, log, rfl, rfl⟩

/-- A failed `Configure` call ends the pulse with the pin as it is (R98, R101). -/
theorem exec_dir_configError (hs : InPulseAt r u k dir out s) (hr : ReadBegins p r)
    (hc : r.env.cfgAt k = .configError) (a : Direction) (x : ErrorKind) :
    ∃ t, exec (.dir a x) s = .next t ∧ PulseOver p t ∧ opsLeft t ≤ 127 ∧ t.dir = dir ∧ t.out = out := by
  obtain ⟨n, e, calls, log, rfl, rfl⟩ := hs
  exact ⟨_, exec_dir_of_configError hc, .of_abort hr.rom hr.inbox ((congrArg BitVec.toNat hr.i).trans_le (by decide)),
    (opsLeft_le _).trans (by simp [Config.epilogue, opsLeftAt]), rfl, rfl⟩

/-- Past the second `DIR` the pulse is over, with the line released. -/
theorem pulseOver (hs : InPulseAt r 7 k .input out s) (hr : ReadBegins p r) :
    PulseOver p s ∧ opsLeft s ≤ 127 ∧ s.dir = .input := by
  obtain ⟨n, e, calls, log, rfl, rfl⟩ := hs
  have hi : r.i.toNat = 0 := congrArg BitVec.toNat hr.i
  have hover : PulseOver p (inPulse r 7 n e .input out calls log) :=
    { rom := hr.rom
      inbox := hr.inbox
      upcOver := rfl
      address := fun _ => by simp [inPulse]
      index := hi.trans_le (by decide)
      indexLoop := fun _ _ => hi.trans_le (by decide)
      waits := fun _ _ => rfl }
  exact ⟨hover, (opsLeft_le _).trans (by simp [inPulse, opsLeftAt]), rfl⟩

/-- The first `Configure` call answered `Ok`, the start pulse leaves the line driven `High` at the second `DIR`. -/
theorem run_toSecondDir (hp : p.wf = true) (hr : ReadBegins p r) (hs : InPulseAt r 1 0 dir out s)
    (h0 : r.env.cfgAt 0 = .ok) : ∃ t, Sys2Proof.core.run 5 s = .next t ∧ InPulseAt r 6 1 .output .high t := by
  obtain ⟨s2, h1, hs2⟩ := hs.exec_dir_ok (by decide) h0 .output .invalidConfiguration
  obtain ⟨s3, h2, hs3⟩ := hs2.exec_lvl (by decide) .low
  obtain ⟨s4, h3, hs4⟩ := hs3.exec_dly (by decide) p.startLowUs
  obtain ⟨s5, h4, hs5⟩ := hs4.exec_lvl (by decide) .high
  obtain ⟨s6, h5, hs6⟩ := hs5.exec_dly (by decide) p.startHighUs
  refine ⟨s6, ?_, hs6⟩
  calc Sys2Proof.core.run 5 s
    _ = Sys2Proof.core.run 4 s2 := core_run_succ_of_step 4 ((hs.step_eq hp hr rfl).trans h1)
    _ = Sys2Proof.core.run 3 s3 := core_run_succ_of_step 3 ((hs2.step_eq hp hr rfl).trans h2)
    _ = Sys2Proof.core.run 2 s4 := core_run_succ_of_step 2 ((hs3.step_eq hp hr rfl).trans h3)
    _ = Sys2Proof.core.run 1 s5 := core_run_succ_of_step 1 ((hs4.step_eq hp hr rfl).trans h4)
    _ = .next s6 := core_run_succ_of_step 0 ((hs5.step_eq hp hr rfl).trans h5)

/-- The second `DIR` releases the line, or its failed call leaves it driven (R104). -/
theorem step_secondDir (hp : p.wf = true) (hr : ReadBegins p r) (hs : InPulseAt r 6 1 .output .high s)
    (h0 : r.env.cfgAt 0 = .ok) : ∃ t, step s = .next t ∧ PulseEnds p r.env t := by
  rw [hs.step_eq hp hr rfl]
  cases h1 : r.env.cfgAt 1 with
  | ok =>
    obtain ⟨t, ht, hst⟩ := hs.exec_dir_ok (by decide) h1 .input .invalidConfiguration
    obtain ⟨hover, hleft, hd⟩ := hst.pulseOver hr
    exact ⟨t, ht, hover, .of_input hd (by simp [h1]), hleft⟩
  | configError =>
    obtain ⟨t, ht, hover, hleft, hd, hout⟩ := hs.exec_dir_configError hr h1 .input .invalidConfiguration
    exact ⟨t, ht, hover, .of_output hout hd h0 h1, hleft⟩

/-- From the first `DIR` on, the start pulse takes six micro-operations, or one when the first call fails. -/
theorem run_pulse (hp : p.wf = true) (hr : ReadBegins p r) (hs : InPulseAt r 1 0 .input out s) :
    ∃ m t, m ≤ 6 ∧ Sys2Proof.core.run m s = .next t ∧ PulseEnds p r.env t := by
  cases h0 : r.env.cfgAt 0 with
  | ok =>
    obtain ⟨s6, hrun, hs6⟩ := hs.run_toSecondDir hp hr h0
    obtain ⟨t, hstep, ht⟩ := hs6.step_secondDir hp hr h0
    exact ⟨6, t, le_rfl, (core_run_add 1 hrun).trans (core_run_succ_of_step 0 hstep), ht⟩
  | configError =>
    obtain ⟨t, ht, hover, hleft, hd, -⟩ := hs.exec_dir_configError hr h0 .output .invalidConfiguration
    exact ⟨1, t, by decide, core_run_succ_of_step 0 ((hs.step_eq hp hr rfl).trans ht), hover,
      .of_input hd (by simp [h0]), hleft⟩

end InPulseAt

/-! ## The read -/

/-- START and `CENT` bring the read to its first `DIR`, with the pin as it was. -/
theorem run_toFirstDir {pin : PinId} {env : Env} (hp : p.wf = true) (hrom : s.rom = canonicalRom p)
    (hb : s.busy = false) (hin : s.inbox = [⟨0, .start pin env⟩]) :
    ∃ r t, ReadBegins p r ∧ r.env = env ∧ InPulseAt r 1 0 s.dir s.out t ∧ Sys2Proof.core.run 2 s = .next t := by
  have hr : ReadBegins p (startRead pin env (takeInbox s)) := ⟨hrom, rfl, by simp [hin, inboxAfter], rfl⟩
  have hstart : step s = .next (startRead pin env (takeInbox s)) := by
    simp [step, (dueMove_of_cons hin).1, makeMove, hb]
  have hcent : step (startRead pin env (takeInbox s)) =
      .next (inPulse (startRead pin env (takeInbox s)) 1 0 0 s.dir s.out [] []) :=
    step_of_canonicalRom (i := .cent) hp hr.rom rfl rfl hr.inbox rfl
  exact ⟨_, _, hr, rfl, ⟨0, 0, [], [], rfl, rfl⟩,
    (core_run_succ_of_step 1 hstart).trans (core_run_succ_of_step 0 hcent)⟩

/-- Settles O55: the start pulse leaves the pin as R104 says, and the rest of the read leaves it so. -/
theorem pinIsRestoredAtTheEnd : Obligations.PinIsRestoredAtTheEnd := by
  intro p s pin env hp hrom hb hin hd
  obtain ⟨r, s1, hr, rfl, hs1, hrun1⟩ := run_toFirstDir hp hrom hb hin
  rw [hd] at hs1
  obtain ⟨m, s2, hm, hrun2, hends⟩ := hs1.run_pulse hp hr
  obtain ⟨t, hrun, hidle, hdir, hout⟩ := hends.pulseOver.run_ends (n := 133 - m) hp
    (hends.opsLeft_le.trans (by omega))
  have hrun135 : Sys2Proof.core.run 135 s = .next t :=
    calc Sys2Proof.core.run 135 s
      _ = Sys2Proof.core.run 133 s1 := core_run_add 133 hrun1
      _ = Sys2Proof.core.run (m + (133 - m)) s1 := by rw [Nat.add_sub_of_le (by omega)]
      _ = Sys2Proof.core.run (133 - m) s2 := core_run_add (133 - m) hrun2
      _ = .next t := hrun
  exact ⟨t, hrun135, hidle, hends.pin.congr hdir hout⟩

end Sys2Proof.Machine
end

section
/-! The micro-operations of the Timing Engine (41_timing_engine.md): `DLY`, and the two waits by what `WaitForLevel`
answers, which is a matter of the line alone. -/

namespace Sys2Proof.Machine

variable {a : Level} {imm : Count} {s t : State} {n : Nat}

/-- Settles O17: `DLY` has one course, and below address 31 it falls through. -/
theorem dlyLetsItsTicksPass : Obligations.DlyLetsItsTicksPass := fun imm s h31 =>
  congrArg Host.Outcome.next (advance_eq_upcPlusOne (s := { delayUs imm.toNat s with e := imm }) h31)

/-! ## `WaitForLevel` -/

theorem waitForLevel_eq_ok_iff (hd : s.dir = .input) :
    waitForLevel a imm s = .ok (.ok n, t) ↔ SeenAfter s.env.lin s.t a imm.toNat n ∧ t = elapse n s := by
  constructor
  · intro h
    obtain ⟨-, ⟨m, hr, hm, rfl⟩ | ⟨hr, -, -⟩⟩ := waitForLevel_cases h
    · cases hr
      exact ⟨hm, rfl⟩
    · cases hr
  · rintro ⟨hn, rfl⟩
    exact waitForLevel_of_seen hd hn

theorem waitForLevel_eq_timeout_iff (hd : s.dir = .input) :
    waitForLevel a imm s = .ok (.timeout, t) ↔
      NeverSeen s.env.lin s.t a imm.toNat ∧ t = elapse (imm.toNat + 1) s := by
  constructor
  · intro h
    obtain ⟨-, ⟨m, hr, -, -⟩ | ⟨-, hn, rfl⟩⟩ := waitForLevel_cases h
    · cases hr
    · exact ⟨hn, rfl⟩
  · rintro ⟨hn, rfl⟩
    exact waitForLevel_of_never hd hn

/-- A wait on an input always ends. -/
theorem exists_waitForLevel_eq_ok (hd : s.dir = .input) : ∃ r, waitForLevel a imm s = .ok r := by
  obtain ⟨n, hn⟩ | hn := seenAfter_or_neverSeen s.env.lin s.t a imm.toNat
  · exact ⟨_, waitForLevel_of_seen hd hn⟩
  · exact ⟨_, waitForLevel_of_never hd hn⟩

/-- `E` counts a wait of up to 65535 ticks without wrapping (R16). -/
theorem elapse_e_toNat (hn : n ≤ 65535) : (elapse n s).e.toNat = n :=
  Nat.mod_eq_of_lt (Nat.lt_succ_of_le hn)

theorem SeenAfter.congr {lin lin' : Trace} {t0 timeout : Nat}
    (hlin : ∀ k, k ≤ timeout → lin'.levelAt (t0 + k) = lin.levelAt (t0 + k)) (h : SeenAfter lin t0 a timeout n) :
    SeenAfter lin' t0 a timeout n := by
  obtain ⟨hn, hbefore, hat⟩ := h
  exact ⟨hn, fun k hk => by rw [hlin k (hk.le.trans hn)]; exact hbefore k hk, (hlin n hn).trans hat⟩

theorem NeverSeen.congr {lin lin' : Trace} {t0 timeout : Nat}
    (hlin : ∀ k, k ≤ timeout → lin'.levelAt (t0 + k) = lin.levelAt (t0 + k)) (h : NeverSeen lin t0 a timeout) :
    NeverSeen lin' t0 a timeout :=
  fun k hk => by rw [hlin k hk]; exact h k hk

/-- A wait asks the line only at the ticks of its budget. -/
theorem waitForLevel_withLin {lin : Trace} {r : WaitResult}
    (hlin : ∀ k, k ≤ imm.toNat → lin.levelAt (s.t + k) = s.env.lin.levelAt (s.t + k))
    (h : waitForLevel a imm s = .ok (r, t)) :
    ∃ t', waitForLevel a imm { s with env := { s.env with lin := lin } } = .ok (r, t') := by
  obtain ⟨hd, ⟨n, rfl, hn, -⟩ | ⟨rfl, hn, -⟩⟩ := waitForLevel_cases h
  · exact ⟨_, waitForLevel_of_seen hd (hn.congr hlin)⟩
  · exact ⟨_, waitForLevel_of_never hd (hn.congr hlin)⟩

/-- Settles O18: by the two answers of the wait, and the line that decides between them. -/
theorem waitForLevelAnswersByTheLine : Obligations.WaitForLevelAnswersByTheLine := by
  intro target timeout s hallowed hd
  have htimeout : timeout.toNat ≤ 65534 := of_decide_eq_true hallowed
  refine ⟨fun n => by simp [waitForLevel_eq_ok_iff hd], by simp [waitForLevel_eq_timeout_iff hd], fun n t h => ?_,
    fun t h => ?_, exists_waitForLevel_eq_ok hd, fun lin hlin r t => waitForLevel_withLin hlin⟩
  · obtain ⟨hseen, rfl⟩ := (waitForLevel_eq_ok_iff hd).mp h
    have hn : n ≤ timeout.toNat := hseen.1
    exact ⟨elapse_e_toNat (by omega), rfl⟩
  · obtain ⟨-, rfl⟩ := (waitForLevel_eq_timeout_iff hd).mp h
    exact ⟨elapse_e_toNat (by omega), rfl⟩

/-! ## `WAIT` and `WAITM` -/

/-- The abort of a wait that used up its budget (R113, R160). -/
theorem abort_elapse_budget (err : ErrorKind) :
    abort err (elapse (imm.toNat + 1) s) =
      { s with e := imm + 1, t := s.t + imm.toNat + 1, err := err, upc := 15, upcOver := false } := by
  have he : BitVec.ofNat 16 (imm.toNat + 1) = imm + 1 := by bv_omega
  simp only [abort, elapse, he]
  rfl

/-- Settles O19: by what the line does. -/
theorem waitSeesItsLevelOrAborts : Obligations.WaitSeesItsLevelOrAborts := by
  intro a imm err s _ _ hd
  refine ⟨fun n hn h31 => ?_, fun hn => ?_⟩
  · rw [exec_wait_of_seen hd hn, advance_eq_upcPlusOne (by exact h31), elapse]
  · rw [exec_wait_of_never hd hn, abort_elapse_budget]

/-- Settles O20: by what the line does, and on `Ok` by the index. -/
theorem waitmRecordsTheElapsedCount : Obligations.WaitmRecordsTheElapsedCount := by
  intro a imm err s _ _ hd
  refine ⟨fun n hn h31 hi => ?_, fun n hn hi => exec_waitm_of_seen_outOfRange hd hn hi, fun hn => ?_⟩
  · rw [exec_waitm_of_seen hd hn hi, advance_eq_upcPlusOne (by exact h31), elapse]
  · rw [exec_waitm_of_never hd hn, abort_elapse_budget]

end Sys2Proof.Machine
end

section
/-! The Frame Decoder (42_frame_decoder.md): `Pack` bit by bit with its inverse, then `DEC`, `VAL` and `CVT`, each as one
equation, and the three in a row. -/

namespace Sys2Proof.Machine

variable {thr : Count} {s : State} {bits : Vector Bool Config.nBits} {frame frame' : Vector Byte Config.nBytes}

/-! ## `Pack` (R130) -/

/-- A number below `2 ^ w` written out by its bits, the most significant first. -/
theorem sum_testBit_mul_two_pow (x w : Nat) :
    ((List.range w).map fun j => (x.testBit (w - 1 - j)).toNat * 2 ^ (w - 1 - j)).sum = x % 2 ^ w := by
  induction w with
  | zero => simp [Nat.mod_one]
  | succ w ih =>
    have hshift (j : Nat) : w - 1 - j = w - (j + 1) := by omega
    rw [List.range_succ_eq_map, Nat.mod_pow_succ, ← Nat.toNat_testBit, ← ih]
    simp only [List.map_cons, List.map_map, List.sum_cons, Function.comp_def, Nat.succ_eq_add_one, Nat.add_sub_cancel,
      Nat.sub_zero, hshift]
    rw [Nat.add_comm, Nat.mul_comm]

/-- A byte is the sum of its bits, the first received being the most significant (R55). -/
theorem byte_toNat_eq_sum_bits (b : Byte) :
    b.toNat = ((List.range 8).map fun j => (b.getLsbD (7 - j)).toNat * 2 ^ (7 - j)).sum :=
  ((sum_testBit_mul_two_pow b.toNat 8).trans (Nat.mod_eq_of_lt b.isLt)).symm

theorem pack_bit (k : Fin Config.nBytes) (j : Fin 8) (h : 8 * k.val + j.val < Config.nBits) :
    (pack bits)[k].getLsbD (7 - j.val) = bits[8 * k.val + j.val]'h := by
  simpa [pack] using packByte_bit bits k j h

theorem bitNumber_lt (k : Fin Config.nBytes) (j : Fin 8) : 8 * k.val + j.val < Config.nBits := by
  have hk : k.val < 5 := k.isLt
  show _ < 40
  omega

theorem pack_toNat (k : Fin Config.nBytes) :
    (pack bits)[k].toNat =
      ((List.range 8).map fun j => (bits[8 * k.val + j]?.getD false).toNat * 2 ^ (7 - j)).sum := by
  rw [byte_toNat_eq_sum_bits]
  refine congrArg List.sum (List.map_congr_left fun j hj => ?_)
  have hj8 : j < 8 := List.mem_range.mp hj
  have h := bitNumber_lt k ⟨j, hj8⟩
  rw [pack_bit k ⟨j, hj8⟩ h, Vector.getElem?_eq_getElem h, Option.getD_some]

/-- Two frames with the same 40 bits are the same. -/
theorem frame_ext (h : ∀ (k : Fin Config.nBytes) (j : Fin 8), frame[k].getLsbD (7 - j.val) = frame'[k].getLsbD (7 - j.val)) :
    frame = frame' := by
  refine Vector.ext fun k hk => BitVec.eq_of_getLsbD_eq fun i hi => ?_
  have hbit := h ⟨k, hk⟩ ⟨7 - i, by omega⟩
  rwa [show 7 - (7 - i) = i by omega] at hbit

/-- The inverse of `Pack`: bit `i` is bit `7 - (i mod 8)` of byte `i div 8` (R131). -/
def unpack (frame : Vector Byte Config.nBytes) : Vector Bool Config.nBits :=
  Vector.ofFn fun i => (frame[i.val / 8]'(Nat.div_lt_of_lt_mul i.isLt)).getLsbD (7 - i.val % 8)

theorem unpack_getElem (k : Fin Config.nBytes) (j : Fin 8) (h : 8 * k.val + j.val < Config.nBits) :
    (unpack frame)[8 * k.val + j.val]'h = frame[k].getLsbD (7 - j.val) := by
  have hdiv : (8 * k.val + j.val) / 8 = k.val := by omega
  have hmod : (8 * k.val + j.val) % 8 = j.val := by omega
  simp [unpack, hdiv, hmod]

theorem pack_unpack (frame : Vector Byte Config.nBytes) : pack (unpack frame) = frame :=
  frame_ext fun k j => (pack_bit k j (bitNumber_lt k j)).trans (unpack_getElem k j _)

theorem unpack_pack (bits : Vector Bool Config.nBits) : unpack (pack bits) = bits := by
  refine Vector.ext fun i hi => ?_
  have hi40 : i < 40 := hi
  obtain ⟨k, j, rfl⟩ : ∃ (k : Fin Config.nBytes) (j : Fin 8), i = 8 * k.val + j.val :=
    ⟨⟨i / 8, Nat.div_lt_of_lt_mul hi40⟩, ⟨i % 8, by omega⟩, (Nat.div_add_mod i 8).symm⟩
  rw [unpack_getElem, pack_bit]

/-- Settles O24: the sum is the byte written out by its bits, and `unpack` is the inverse. -/
theorem packIsTheSumAndABijection : Obligations.PackIsTheSumAndABijection :=
  ⟨fun _ k => pack_toNat k, Function.bijective_iff_has_inverse.mpr ⟨unpack, unpack_pack, pack_unpack⟩⟩

/-! ## `DEC`, `VAL` and `CVT` -/

theorem exec_dec (thr : Count) (s : State) :
    exec (.dec thr) s = .next (advance (setFrame (pack (classifyAll s.samples thr)) s)) := rfl

theorem exec_val (s : State) :
    exec .val s = .next (advance (keepChecksum { s with err := valError s.frame s.err })) := rfl

theorem exec_cvt (s : State) : exec .cvt s = .next (advance (setMeasurement s)) := rfl

theorem classifyAll_getElem {samples : Vector Count Config.nBits} {i : Nat} (h : i < Config.nBits) :
    (classifyAll samples thr)[i]'h = decide (thr.toNat < samples[i].toNat) := by
  simp [classifyAll, classify]

/-- The comparison of `VAL` as one of numbers (R132, R133). -/
theorem valError_eq (frame : Vector Byte Config.nBytes) (err : ErrorKind) :
    valError frame err =
      if (frame[0].toNat + frame[1].toNat + frame[2].toNat + frame[3].toNat) % 256 = frame[4].toNat then err
      else .checksum := by
  simp only [valError, ← BitVec.toNat_inj, checksum_toNat]

/-- Settles O23: the frame is the `Pack` of the classified samples. -/
theorem decPacksTheClassifiedSamples : Obligations.DecPacksTheClassifiedSamples := fun thr s h31 =>
  ⟨_, exec_dec thr s, advance_eq_upcPlusOne (s := setFrame _ s) h31,
    fun k j h => (pack_bit k j h).trans (classifyAll_getElem h)⟩

/-- Settles O25: `VAL` has one course, and compares numbers. -/
theorem valReportsAMismatch : Obligations.ValReportsAMismatch := by
  intro s h31
  rw [exec_val, advance_eq_upcPlusOne (by exact h31), valError_eq, keepChecksum]

/-- Settles O26: the tenths fit their registers. -/
theorem cvtProducesTheMeasurement : Obligations.CvtProducesTheMeasurement := fun s h31 =>
  ⟨_, exec_cvt s, convert_toNat _ _, convert_toNat _ _, rfl, advance_eq_upcPlusOne (s := setMeasurement s) h31⟩

/-! ## The three in a row (R136) -/

/-- The Measurement that `VAL; CVT` make of a frame in a read without an error. -/
def measurementOf (frame : Vector Byte Config.nBytes) : Measurement where
  hum := convert frame[0] frame[1]
  tmp := convert frame[2] frame[3]
  chk := frame[4]
  err := valError frame .none

theorem execAll_decode (thr : Count) (herr : s.err = .none) :
    ∃ t, execAll [.dec thr, .val, .cvt] s = .next t ∧ t.frame = pack (classifyAll s.samples thr) ∧
      t.measurement = measurementOf (pack (classifyAll s.samples thr)) := by
  simp only [execAll, exec_dec, exec_val, exec_cvt]
  exact ⟨_, rfl, rfl, by simp [State.measurement, measurementOf, herr]⟩

/-- Settles O27: frame and Measurement are those of `execAll_decode`, which speak of the samples and the threshold alone. -/
theorem decodingIsAFunctionOfTheSamples : Obligations.DecodingIsAFunctionOfTheSamples := by
  intro thr s1 s2 hsamples h1 h2
  obtain ⟨t1, hexec1, hframe1, hmeas1⟩ := execAll_decode thr h1
  obtain ⟨t2, hexec2, hframe2, hmeas2⟩ := execAll_decode thr h2
  rw [← hsamples] at hframe2 hmeas2
  refine ⟨t1, t2, hexec1, hexec2, hframe1.trans hframe2.symm, hmeas1.trans hmeas2.symm, ?_⟩
  rw [show t1.err = _ from congrArg Measurement.err hmeas1]
  exact valError_cases _ .none

end Sys2Proof.Machine
end

section
/-! The Sequencer's own micro-operations and START (43_sequencer.md R150 to R156, R165), and what follows from the invariant
of the canonical micro-program alone: it never faults (R166), its phase never decreases (R158), and `EPILOGUE` ends the
read (R160). -/

namespace Sys2Proof.Machine

variable {s t : State}

/-! ## `CENT`, `CEXT`, `LOOP`, `END` -/

/-- Settles O1: `CENT` has one course, and below address 31 it falls through. -/
theorem centEntersTheCriticalSection : Obligations.CentEntersTheCriticalSection := fun s h31 =>
  congrArg Host.Outcome.next (advance_eq_upcPlusOne (s := critEnter s) h31)

/-- Settles O2: `CEXT` has one course, and below address 31 it falls through. -/
theorem cextLeavesTheCriticalSection : Obligations.CextLeavesTheCriticalSection := fun s h31 =>
  congrArg Host.Outcome.next (advance_eq_upcPlusOne (s := critExit s) h31)

/-- Settles O3: the fault at 63, and below it the comparison of the new index with the count. -/
theorem loopCountsAndBranches : Obligations.LoopCountsAndBranches := by
  intro tgt cnt s
  refine ⟨fun h63 => if_pos h63, fun hlt hcnt => exec_loop_back hlt.ne hcnt, fun hlt hcnt h31 => ?_⟩
  rw [exec_loop_through hlt.ne hcnt, advance_eq_upcPlusOne (by exact h31)]

/-- Settles O4: the meaning of `END` is `finish`. -/
theorem endHandsTheResultOver : Obligations.EndHandsTheResultOver := fun _ => rfl

/-! ## Idle and START -/

/-- Settles O32: with nothing due an Idle CORE idles. -/
theorem idleStaysIdle : Obligations.IdleStaysIdle := fun _ => step_of_idle

/-- A due START of an Idle CORE is made. -/
theorem step_of_start {pin : PinId} {env : Env} {rest : List Arrival} (hb : s.busy = false)
    (hin : s.inbox = ⟨0, .start pin env⟩ :: rest) : step s = .next (startRead pin env { s with inbox := rest }) := by
  obtain ⟨hdue, htake⟩ := dueMove_of_cons hin
  simp [step, hdue, htake, makeMove, hb]

/-- Settles O35: the step is `startRead`, and a pin that fits the port is carried as it is. -/
theorem startBeginsARead : Obligations.StartBeginsARead := fun _ _ _ _ hb hin =>
  ⟨_, step_of_start hb hin, rfl, pinOnPort_of_lt, rfl⟩

/-- Settles O36: a due START of a busy CORE is refused. -/
theorem startWhileBusyIsRefused : Obligations.StartWhileBusyIsRefused := by
  intro s pin env rest hb hin
  obtain ⟨hdue, htake⟩ := dueMove_of_cons hin
  simp [step, hdue, htake, makeMove, hb]

/-! ## No fault -/

/-- No move of the host is a fault. -/
theorem makeMove_ne_fault (m : HostMove) (f : Fault) : makeMove m s ≠ .fault f := by
  cases m with
  | rst => simp [makeMove]
  | start pin env | preempt => cases hb : s.busy <;> simp [makeMove, hb]

/-- `DIR` completes whatever `Configure` answers. -/
theorem exists_exec_dir_eq_next (a : Direction) (x : ErrorKind) (s : State) : ∃ t, exec (.dir a x) s = .next t := by
  cases hc : s.env.cfgAt s.cfgLog.length with
  | ok => exact ⟨_, exec_dir_of_ok hc⟩
  | configError => exact ⟨_, exec_dir_of_configError hc⟩

namespace CanonicalInv

/-- Every micro-operation of the canonical micro-program completes: `LVL` stands in the pulse, where the pin is an output;
from address 7 on the read goes on. -/
theorem exists_exec_eq_next (h : CanonicalInv s) (hb : s.busy = true) {i : Instr}
    (hi : (canonicalProgram Config.defaults)[s.upc.toNat]? = some i) : ∃ t, exec i s = .next t := by
  rcases Nat.lt_or_ge s.upc.toNat 7 with h7 | h7
  · have hlvl (h2 : 2 ≤ s.upc.toNat) (a : Level) : ∃ t, exec (.lvl a) s = .next t :=
      ⟨_, exec_lvl_of_output (h.pulse hb h2 (by omega))⟩
    generalize s.upc.toNat = u at hi h7 hlvl
    interval_cases u <;> obtain rfl := Option.some.inj hi
    · exact ⟨_, rfl⟩
    · exact exists_exec_dir_eq_next _ _ s
    · exact hlvl (by decide) _
    · exact ⟨_, rfl⟩
    · exact hlvl (by decide) _
    · exact ⟨_, rfl⟩
    · exact exists_exec_dir_eq_next _ _ s
  · obtain ⟨t, ht, -⟩ := h.exec_stepsOn hb h7 hi
    exact ⟨t, ht⟩

theorem sequencerStep_ne_fault (h : CanonicalInv s) (f : Fault) : sequencerStep s ≠ .fault f := by
  cases hb : s.busy with
  | false => simp [sequencerStep, hb]
  | true =>
    obtain ⟨i, hi, hf⟩ := h.fetch_eq
    obtain ⟨t, ht⟩ := h.exists_exec_eq_next hb hi
    simp [sequencerStep, hb, hf, ht]

end CanonicalInv

/-- Settles O50: neither a move of the host nor a step of the Sequencer is a fault. -/
theorem canonicalProgramNeverFaults : Obligations.CanonicalProgramNeverFaults := by
  intro s f h
  unfold step
  cases dueMove s with
  | some m => exact makeMove_ne_fault m f
  | none => exact h.takeInbox.sequencerStep_ne_fault f

/-! ## The phase -/

/-- The phases of a read as numbers (R20). -/
theorem phase_code_toNat (hb : s.busy = true) :
    s.phase.code.toNat =
      if s.upc.toNat ≤ 6 then 1 else if s.upc.toNat = 7 then 2 else if s.upc.toNat = 8 then 3
      else if s.upc.toNat ≤ 11 then 4 else if s.upc.toNat = 12 then 5 else if s.upc.toNat = 13 then 6 else 7 := by
  rw [State.phase, if_neg (by simp [hb])]
  split_ifs <;> rfl

/-- They are numbered in the order of their addresses. -/
theorem phase_code_le (hs : s.busy = true) (ht : t.busy = true) (hu : s.upc.toNat ≤ t.upc.toNat) :
    s.phase.code.toNat ≤ t.phase.code.toNat := by
  rw [phase_code_toNat hs, phase_code_toNat ht]
  split_ifs <;> omega

/-- The one `LOOP` of the canonical micro-program stands at 11 and goes back to 9 (R82). -/
theorem canonicalProgram_loop {p : Config.Params} {u : Nat} {tgt : Addr} {cnt : BitVec 8} (h16 : u ≤ 16)
    (hi : (canonicalProgram p)[u]? = some (.loop tgt cnt)) : u = 11 ∧ tgt = 9 := by
  interval_cases u <;> cases hi
  exact ⟨rfl, rfl⟩

/-- A micro-operation of the canonical micro-program that can abort is not the `END` at 16 (R82). -/
theorem canonicalProgram_carries {p : Config.Params} {u : Nat} {i : Instr} {e : ErrorKind} (h16 : u ≤ 16)
    (hi : (canonicalProgram p)[u]? = some i) (hc : Carries i e) : u ≤ 15 := by
  by_contra h15
  obtain rfl : u = 16 := by omega
  obtain rfl := Option.some.inj hi
  simp [Carries] at hc

/-- Settles O51: of the ways a micro-operation leaves, only the `LOOP` goes to a lower address, inside the bit loop, and `END`
ends the read. -/
theorem phaseNeverDecreasesDuringARead : Obligations.PhaseNeverDecreasesDuringARead := by
  intro s t h hb hdue hstep htb
  have h16 := h.inRom.2
  obtain ⟨i, hi, hf⟩ := h.takeInbox.fetch_eq
  have hexec : exec i (takeInbox s) = .next t := by
    rw [← hstep, step, hdue]
    simp [sequencerStep, hb, hf]
  cases exec_leavesTo hexec with
  | fallThrough _ hupc _ _ =>
    have hadv : t.upc.toNat = s.upc.toNat + 1 :=
      (congrArg BitVec.toNat hupc).trans (advance_upc_toNat (s := takeInbox s) (h16.trans_lt (by decide)))
    exact phase_code_le hb htb (by omega)
  | target hloop hupc _ _ =>
    obtain ⟨h11, rfl⟩ := canonicalProgram_loop h16 (hloop ▸ hi)
    simp [phase_code_toNat hb, phase_code_toNat htb, h11, hupc]
  | aborts hc hupc _ => exact phase_code_le hb htb (hupc ▸ canonicalProgram_carries h16 hi hc)
  | ends hend _ _ _ =>
    subst hend
    rw [execEnd_cases hexec] at htb
    cases htb

/-! ## `EPILOGUE` -/

/-- A read of the canonical micro-program with the parameters `p` that stands at address `u`, with nothing of the host to
come. -/
structure ReadAt (p : Config.Params) (u : Addr) (s : State) : Prop where
  wf : p.wf = true
  rom : s.rom = canonicalRom p
  inbox : s.inbox = []
  busy : s.busy = true
  upc : s.upc = u
  upcOver : s.upcOver = false

namespace ReadAt

variable {p : Config.Params} {u : Addr}

theorem step_eq_exec (h : ReadAt p u s) {i : Instr} (hi : (canonicalProgram p)[u.toNat]? = some i) :
    step s = exec i s :=
  step_of_canonicalRom h.wf h.rom h.upcOver h.busy h.inbox (by rwa [h.upc])

/-- After a fall-through the read stands at the next address. -/
theorem advance (h : ReadAt p u s) (hu : u ≠ 31) : ReadAt p (u + 1) (advance s) := by
  have hs : s.upc ≠ 31 := h.upc ▸ hu
  rw [advance_eq_upcPlusOne hs]
  exact { h with upc := congrArg (· + 1) h.upc, upcOver := rfl }

/-- After an abort it stands at `EPILOGUE` (R160). -/
theorem abort (h : ReadAt p u s) (e : ErrorKind) : ReadAt p 15 (abort e s) := { h with upc := rfl, upcOver := rfl }

/-- From `EPILOGUE` exactly `CEXT` and `END` run (R160). -/
theorem run_epilogue (h : ReadAt p 15 s) :
    Sys2Proof.core.run 2 s = .next (finish (Machine.advance (critExit s))) := by
  have hexit : ReadAt p 16 (Machine.advance (critExit s)) := ReadAt.advance (s := critExit s) { h with } (by decide)
  calc Sys2Proof.core.run 2 s
    _ = Sys2Proof.core.run 1 (Machine.advance (critExit s)) :=
      core_run_succ_of_step 1 (h.step_eq_exec (i := .cext) rfl)
    _ = .next (finish (Machine.advance (critExit s))) :=
      core_run_succ_of_step 0 (hexit.step_eq_exec (i := .endOp) rfl)

end ReadAt

theorem CanonicalInv.readAt (h : CanonicalInv s) (hb : s.busy = true) (hin : s.inbox = []) :
    ReadAt Config.defaults s.upc s :=
  ⟨by decide, h.rom, hin, hb, rfl, h.inRom.1⟩

/-- Settles O52: the two micro-operations write `CRIT` and what `END` writes. -/
theorem epilogueEndsTheRead : Obligations.EpilogueEndsTheRead := by
  intro s h hb hu hin
  have hread : ReadAt Config.defaults 15 s := hu ▸ h.readAt hb hin
  exact ⟨_, hread.run_epilogue, rfl, rfl, rfl, rfl, rfl, rfl, rfl, rfl⟩

end Sys2Proof.Machine
end

section
/-! The read of the canonical micro-program as a whole, for every parameter set (43_sequencer.md R161, R162): from each part
of the program to the end, which Measurement it delivers and by which tick. The parts are taken from the last to the first. -/

namespace Sys2Proof.Machine

variable {p : Config.Params} {u : Addr} {s t : State} {m : Measurement} {n limit : Nat}

/-! ## The end of a read -/

/-- A read that has ended, with Measurement `m` and at the latest at tick `limit`. -/
structure Ended (m : Measurement) (limit : Nat) (s : State) : Prop where
  inbox : s.inbox = []
  busy : s.busy = false
  done : s.done = true
  upc : s.upc = 0
  measurement : s.measurement = m
  t_le : s.t ≤ limit

/-- From `s` the read has ended after `n` steps, idle steps among them when it takes fewer (log 3). -/
def EndsIn (n : Nat) (m : Measurement) (limit : Nat) (s : State) : Prop :=
  ∃ t, Sys2Proof.core.run n s = .next t ∧ Ended m limit t

theorem Ended.run_eq (h : Ended m limit s) : ∀ n, Sys2Proof.core.run n s = .next s
  | 0 => core_run_zero s
  | n + 1 => (core_run_succ_of_step n (step_of_idle h.busy h.inbox)).trans (h.run_eq n)

theorem EndsIn.mono {k : Nat} (h : EndsIn k m limit s) (hk : k ≤ n) : EndsIn n m limit s := by
  obtain ⟨t, hrun, hend⟩ := h
  refine ⟨t, ?_, hend⟩
  rw [← Nat.add_sub_of_le hk, core_run_add (n - k) hrun, hend.run_eq]

theorem EndsIn.of_step (hstep : step s = .next t) (h : EndsIn n m limit t) : EndsIn (n + 1) m limit s := by
  obtain ⟨t', hrun, hend⟩ := h
  exact ⟨t', (core_run_succ_of_step n hstep).trans hrun, hend⟩

namespace ReadAt

/-- A micro-operation of the program, and the rest of the read. -/
theorem endsIn_of_exec (h : ReadAt p u s) {i : Instr} (hi : (canonicalProgram p)[u.toNat]? = some i)
    (hexec : exec i s = .next t) (hend : EndsIn n m limit t) : EndsIn (n + 1) m limit s :=
  .of_step ((h.step_eq_exec hi).trans hexec) hend

/-- One that falls through, with `x` what it makes of the registers. -/
theorem endsIn_of_fallThrough (h : ReadAt p u s) {i : Instr} {x : State}
    (hi : (canonicalProgram p)[u.toNat]? = some i) (hexec : exec i s = .next (Machine.advance x)) (hx : ReadAt p u x)
    (hend : ReadAt p (u + 1) (Machine.advance x) → EndsIn n m limit (Machine.advance x)) : EndsIn (n + 1) m limit s := by
  have hu : u ≠ 31 := by
    rintro rfl
    cases hi
  exact h.endsIn_of_exec hi hexec (hend (hx.advance hu))

/-- `CEXT` and `END`: the read ends with its Measurement as it stands. -/
theorem endsIn_epilogue (h : ReadAt p 15 s) (ht : s.t ≤ limit) : EndsIn 2 s.measurement limit s :=
  ⟨_, h.run_epilogue, h.inbox, rfl, rfl, rfl, rfl, ht⟩

/-- One that aborts: the read ends with its error and no result (R160, R35). -/
theorem endsIn_of_abort (h : ReadAt p u s) {i : Instr} {x : State} {e : ErrorKind}
    (hi : (canonicalProgram p)[u.toNat]? = some i) (hexec : exec i s = .next (Machine.abort e x)) (hx : ReadAt p u x)
    (hm : x.measurement = failedMeasurement .none) (ht : x.t ≤ limit) (hn : 3 ≤ n) :
    EndsIn n (failedMeasurement e) limit s := by
  have hfailed : (Machine.abort e x).measurement = failedMeasurement e := congrArg ({ · with err := e }) hm
  have hend : EndsIn 2 (failedMeasurement e) limit (Machine.abort e x) := hfailed ▸ (hx.abort e).endsIn_epilogue ht
  exact (h.endsIn_of_exec hi hexec hend).mono hn

/-- From `DEC` on the read delivers what `VAL; CVT` make of the frame (R157). -/
theorem endsIn_decode (h : ReadAt p 12 s) (herr : s.err = .none) (ht : s.t ≤ limit) :
    EndsIn 5 (measurementOf (pack (classifyAll s.samples p.bitThresholdUs))) limit s := by
  refine h.endsIn_of_fallThrough rfl (exec_dec _ s) { h with } fun h13 => ?_
  refine h13.endsIn_of_fallThrough rfl (exec_val _) { h13 with } fun h14 => ?_
  refine h14.endsIn_of_fallThrough rfl (exec_cvt _) { h14 with } fun h15 => ?_
  convert h15.endsIn_epilogue ht using 1
  simp [State.measurement, measurementOf, herr]

end ReadAt

/-! ## The Measurement of R162 -/

theorem pack_toNat_eq_specByte (samples : Vector Count Config.nBits) (thr : Count) {k : Nat} (hk : k < Config.nBytes) :
    (pack (classifyAll samples thr))[k].toNat = specByte thr.toNat (samples.toList.map BitVec.toNat) k := by
  refine (pack_toNat ⟨k, hk⟩).trans (congrArg List.sum (List.map_congr_left fun j hj => ?_))
  have hlt : 8 * k + j < Config.nBits := bitNumber_lt ⟨k, hk⟩ ⟨j, List.mem_range.mp hj⟩
  rw [Vector.getElem?_eq_getElem hlt, Option.getD_some, classifyAll_getElem hlt,
    List.getD_eq_getElem _ _ (by simpa using hlt)]
  simp [Bool.toNat, Bool.cond_eq_ite]

/-- What `VAL; CVT` make of the frame that `DEC` packs is the Measurement of R162. -/
theorem measurementOf_eq_specMeasurement (samples : Vector Count Config.nBits) :
    measurementOf (pack (classifyAll samples p.bitThresholdUs)) =
      specMeasurement p (samples.toList.map BitVec.toNat) := by
  have hbyte {k : Nat} (hk : k < 5) := pack_toNat_eq_specByte samples p.bitThresholdUs hk
  simp only [measurementOf, specMeasurement, convert, valError_eq, BitVec.ofNat_toNat, BitVec.setWidth_eq,
    ← hbyte (k := 0) (by decide), ← hbyte (k := 1) (by decide), ← hbyte (k := 2) (by decide),
    ← hbyte (k := 3) (by decide), ← hbyte (k := 4) (by decide)]

/-- The Measurement of a read whose samples were `taken` so far, by the samples or the error of the bits that are left. -/
def bitsOutcome (p : Config.Params) (taken : List Nat) : Except ErrorKind (List Nat) → Measurement
  | .error e => failedMeasurement e
  | .ok rest => specMeasurement p (taken ++ rest)

/-- One turn of the loop of R162. -/
theorem bitsOutcome_succ {lin : Trace} {k : Nat} (taken : List Nat) :
    bitsOutcome p taken (specSamples p lin (k + 1) n) =
      (specWait lin n .low p.bitStartTimeoutUs.toNat).elim (failedMeasurement .startReadBitTimeout) fun a =>
        (specWait lin (n + a) .high p.bitMeasureTimeoutUs.toNat).elim (failedMeasurement .readBitTimeout) fun b =>
          bitsOutcome p (taken ++ [b]) (specSamples p lin k (n + a + b)) := by
  rw [specSamples]
  cases specWait lin n .low p.bitStartTimeoutUs.toNat with
  | none => rfl
  | some a =>
    simp only [Option.elim_some]
    cases specWait lin (n + a) .high p.bitMeasureTimeoutUs.toNat with
    | none => rfl
    | some b => cases hk : specSamples p lin k (n + a + b) <;> simp [bitsOutcome, hk]

theorem specAfterPulse_eq {lin : Trace} :
    specAfterPulse p lin n =
      (specWait lin n .low p.responseTimeoutUs.toNat).elim (failedMeasurement .responseTimeout) fun a =>
        (specWait lin (n + a) .high p.readyTimeoutUs.toNat).elim (failedMeasurement .getReadyTimeout) fun b =>
          bitsOutcome p [] (specSamples p lin Config.nBits (n + a + b)) := by
  rw [specAfterPulse]
  cases specWait lin n .low p.responseTimeoutUs.toNat with
  | none => rfl
  | some a =>
    simp only [Option.elim_some]
    cases specWait lin (n + a) .high p.readyTimeoutUs.toNat with
    | none => rfl
    | some b => cases hk : specSamples p lin Config.nBits (n + a + b) <;> simp [bitsOutcome, hk]

/-! ## The waits -/

/-- A read that stands at address `u` on a released line, without an error or a result so far. -/
structure Waiting (p : Config.Params) (u : Addr) (s : State) : Prop extends ReadAt p u s where
  dir : s.dir = .input
  noResult : s.measurement = failedMeasurement .none

/-- A `WAIT` of the program, as a wait of R162. -/
theorem Waiting.endsIn_wait (h : Waiting p u s) {a : Level} {imm : Count} {e : ErrorKind} {next : Nat → Measurement}
    (hi : (canonicalProgram p)[u.toNat]? = some (.wait a imm e)) (hn : 2 ≤ n) (ht : s.t + imm.toNat + 1 ≤ limit)
    (hnext : ∀ k ≤ imm.toNat, Waiting p (u + 1) (advance (elapse k s)) →
      EndsIn n (next k) limit (advance (elapse k s))) :
    EndsIn (n + 1) ((specWait s.env.lin s.t a imm.toNat).elim (failedMeasurement e) next) limit s := by
  cases hw : specWait s.env.lin s.t a imm.toNat with
  | none =>
    exact h.endsIn_of_abort hi (exec_wait_of_never h.dir ((specWait_eq_none_iff _).mp hw)) { h with } h.noResult ht
      (by omega)
  | some k =>
    have hseen := (specWait_eq_some_iff _ _).mp hw
    exact h.endsIn_of_fallThrough hi (exec_wait_of_seen h.dir hseen) { h with } fun h' =>
      hnext k hseen.1 { h' with dir := h.dir, noResult := h.noResult }

/-! ## The bits -/

/-- The samples of the bits counted so far. -/
def takenSamples (s : State) : List Nat := (s.samples.toList.take s.i.toNat).map BitVec.toNat

theorem takenSamples_of_none (hi : s.i.toNat = 0) : takenSamples s = [] := by
  rw [takenSamples, hi]
  rfl

theorem takenSamples_of_all (hi : s.i.toNat = Config.nBits) : takenSamples s = s.samples.toList.map BitVec.toNat := by
  rw [takenSamples, hi, List.take_of_length_le (by simp)]

/-- What `LOOP` makes of a state with `k` bits left after it: on to the next bit, or past the loop. -/
def pastLoop (k : Nat) (s : State) : State :=
  { s with i := s.i + 1, upc := if k = 0 then 12 else 9, upcOver := false }

theorem exec_loop_eq_pastLoop {k : Nat} (hu : s.upc = 11) (hi : s.i.toNat + (k + 1) = 40) :
    exec (.loop 9 40) s = .next (pastLoop k s) := by
  obtain ⟨-, hback, hthrough⟩ := loopCountsAndBranches 9 40 s
  cases k with
  | zero =>
    rw [hthrough (by omega) (by show 40 ≤ s.i.toNat + 1; omega) (by simp [hu])]
    simp [pastLoop, upcPlusOne, hu]
  | succ k => exact hback (by omega) (by show s.i.toNat + 1 < 40; omega)

theorem pastLoop_i_toNat {k : Nat} (hi : s.i.toNat < Config.nBits) : (pastLoop k s).i.toNat = s.i.toNat + 1 := by
  have h40 : s.i.toNat < 40 := hi
  rw [pastLoop]
  bv_omega

/-- The sample of a bit comes after those taken before, whatever else the bit writes. -/
theorem takenSamples_pastLoop {k b : Nat} (hi : s.i.toNat < Config.nBits) (hb : b < 65536) {x : State}
    (hxi : x.i = s.i) (hx : x.samples = s.samples.set s.i.toNat (BitVec.ofNat 16 b) hi) :
    takenSamples (pastLoop k x) = takenSamples s ++ [b] := by
  rw [takenSamples, pastLoop_i_toNat (by rwa [hxi]), hxi, show (pastLoop k x).samples = _ from hx, Vector.toList_set,
    List.take_succ_eq_append_getElem (by simpa using hi), List.take_set_of_le le_rfl, List.getElem_set_self]
  simp [takenSamples, Nat.mod_eq_of_lt hb]

/-- The read stands where its last `k` bits begin: at 9, or past the loop when there are none. -/
structure BitsLeft (p : Config.Params) (k : Nat) (s : State) : Prop where
  waiting : Waiting p (if k = 0 then 12 else 9) s
  index : s.i.toNat + k = Config.nBits

/-- `LOOP`: one bit fewer is left. -/
theorem Waiting.bitsLeft_pastLoop {k : Nat} (h : Waiting p 11 s) (hi : s.i.toNat + (k + 1) = Config.nBits) :
    BitsLeft p k (pastLoop k s) where
  waiting := { h with upc := rfl, upcOver := rfl }
  index := by
    rw [pastLoop_i_toNat (by omega)]
    omega

/-- `WAITM` as the second wait of a bit in R162, with the `LOOP` after it. -/
theorem Waiting.endsIn_sample (h : Waiting p 10 s) {k : Nat} {next : Nat → Measurement}
    (hi : s.i.toNat + (k + 1) = Config.nBits) (hn : 2 ≤ n) (ht : s.t + p.bitMeasureTimeoutUs.toNat + 1 ≤ limit)
    (hnext : ∀ b ≤ p.bitMeasureTimeoutUs.toNat, ∀ x, BitsLeft p k x → takenSamples x = takenSamples s ++ [b] →
      x.env = s.env → x.t = s.t + b → EndsIn n (next b) limit x) :
    EndsIn (n + 2) ((specWait s.env.lin s.t .high p.bitMeasureTimeoutUs.toNat).elim
      (failedMeasurement .readBitTimeout) next) limit s := by
  cases hw : specWait s.env.lin s.t .high p.bitMeasureTimeoutUs.toNat with
  | none =>
    exact h.endsIn_of_abort rfl (exec_waitm_of_never h.dir ((specWait_eq_none_iff _).mp hw)) { h with } h.noResult ht
      (by omega)
  | some b =>
    have hseen := (specWait_eq_some_iff _ _).mp hw
    have hi40 : s.i.toNat < Config.nBits := by omega
    have hb16 : b < 65536 := hseen.1.trans_lt p.bitMeasureTimeoutUs.isLt
    refine h.endsIn_of_fallThrough rfl (exec_waitm_of_seen h.dir hseen hi40) { h with } fun h11 => ?_
    have hleft := Waiting.bitsLeft_pastLoop { h11 with dir := h.dir, noResult := h.noResult } hi
    exact h11.endsIn_of_exec rfl (exec_loop_eq_pastLoop h11.upc hi)
      (hnext b hseen.1 _ hleft (takenSamples_pastLoop hi40 hb16 rfl rfl) rfl rfl)

/-- The ticks a bit can take when both its waits see their level (R231). -/
def bitTicks (p : Config.Params) : Nat := p.bitStartTimeoutUs.toNat + p.bitMeasureTimeoutUs.toNat

/-- From the last `k` bits on the read is the loop of R162 and what follows it. -/
theorem BitsLeft.endsIn {k : Nat} (h : BitsLeft p k s) (ht : s.t + k * bitTicks p + 1 ≤ limit) :
    EndsIn (3 * k + 5) (bitsOutcome p (takenSamples s) (specSamples p s.env.lin k s.t)) limit s := by
  induction k generalizing s with
  | zero =>
    obtain ⟨h12, hi⟩ := h
    rw [takenSamples_of_all hi, specSamples, bitsOutcome, List.append_nil, ← measurementOf_eq_specMeasurement]
    exact h12.endsIn_decode (congrArg Measurement.err h12.noResult) (by omega)
  | succ k ih =>
    obtain ⟨h9, hi⟩ := h
    rw [if_neg (Nat.succ_ne_zero k)] at h9
    rw [Nat.succ_mul, bitTicks] at ht
    rw [bitsOutcome_succ]
    refine h9.endsIn_wait rfl (by omega) (by omega) fun a ha h10 => ?_
    refine h10.endsIn_sample hi (by omega) ?_ fun b hb x hleft htaken henv (hx : x.t = s.t + a + b) => ?_
    · show s.t + a + _ + 1 ≤ limit
      omega
    · have hend := ih hleft (by rw [hx, bitTicks]; omega)
      rwa [htaken, henv, hx] at hend

/-! ## The handshake and the start pulse -/

/-- The latest tick at which a read can end: every wait as long as it may be, and a timeout in the last (R231). -/
def readTicks (p : Config.Params) : Nat :=
  p.startLowUs.toNat + p.startHighUs.toNat + p.responseTimeoutUs.toNat + p.readyTimeoutUs.toNat +
    Config.nBits * bitTicks p + 1

/-- From address 7 on the read is the part of R162 after the start pulse. -/
theorem Waiting.endsIn_afterPulse (h : Waiting p 7 s) (hi : s.i = 0)
    (ht : s.t = p.startLowUs.toNat + p.startHighUs.toNat) :
    EndsIn 127 (specAfterPulse p s.env.lin s.t) (readTicks p) s := by
  rw [specAfterPulse_eq]
  refine h.endsIn_wait rfl (by decide) (by rw [ht, readTicks]; omega) fun a ha h8 => ?_
  refine h8.endsIn_wait rfl (by decide) ?_ fun b hb h9 => ?_
  · show s.t + a + _ + 1 ≤ readTicks p
    rw [ht, readTicks]
    omega
  · have hbits : BitsLeft p Config.nBits (advance (elapse b (advance (elapse a s)))) := ⟨h9, by simp [hi]⟩
    have htick : s.t + a + b + Config.nBits * bitTicks p + 1 ≤ readTicks p := by
      rw [ht, readTicks]
      omega
    have hend : EndsIn 125 _ (readTicks p) _ := hbits.endsIn htick
    rwa [takenSamples_of_none (by simp [hi])] at hend

/-- From the second `DIR` on the read is R162, by what its `Configure` call answers. -/
theorem ReadAt.endsIn_secondDir (h : ReadAt p 6 s) (hi : s.i = 0) (hm : s.measurement = failedMeasurement .none)
    (ht : s.t = p.startLowUs.toNat + p.startHighUs.toNat) (hcalls : s.cfgLog.length = 1)
    (h0 : s.env.cfgAt 0 = .ok) : EndsIn 128 (specRead p s.env) (readTicks p) s := by
  have hcall := congrArg s.env.cfgAt hcalls
  cases h1 : s.env.cfgAt 1 with
  | configError =>
    simp only [specRead, h0, h1]
    exact h.endsIn_of_abort rfl (exec_dir_of_configError (hcall.trans h1)) { h with } hm
      (ht.trans_le (by rw [readTicks]; omega)) (by decide)
  | ok =>
    simp only [specRead, h0, h1, ← ht]
    refine h.endsIn_of_fallThrough rfl (exec_dir_of_ok (hcall.trans h1)) { h with } fun h7 => ?_
    exact Waiting.endsIn_afterPulse { h7 with dir := rfl, noResult := hm } hi ht

/-- From the first `DIR` on the read is R162, by what the two `Configure` calls answer. -/
theorem ReadAt.endsIn_firstDir (h : ReadAt p 1 s) (hi : s.i = 0) (hm : s.measurement = failedMeasurement .none)
    (ht : s.t = 0) (hcalls : s.cfgLog.length = 0) : EndsIn 133 (specRead p s.env) (readTicks p) s := by
  have hcall := congrArg s.env.cfgAt hcalls
  cases h0 : s.env.cfgAt 0 with
  | configError =>
    simp only [specRead, h0]
    exact h.endsIn_of_abort rfl (exec_dir_of_configError (hcall.trans h0)) { h with } hm (ht.trans_le (Nat.zero_le _))
      (by decide)
  | ok =>
    refine h.endsIn_of_fallThrough rfl (exec_dir_of_ok (hcall.trans h0)) { h with } fun h2 => ?_
    refine h2.endsIn_of_fallThrough rfl (exec_lvl_of_output rfl) { h2 with } fun h3 => ?_
    refine h3.endsIn_of_fallThrough rfl rfl { h3 with } fun h4 => ?_
    refine h4.endsIn_of_fallThrough rfl (exec_lvl_of_output rfl) { h4 with } fun h5 => ?_
    refine h5.endsIn_of_fallThrough rfl rfl { h5 with } fun h6 => ?_
    exact h6.endsIn_secondDir hi hm (by simp [ht]) (congrArg (· + 1) hcalls) h0

/-- A read of the canonical micro-program ends within 134 micro-operations after its START, with the Measurement of R162. -/
theorem endsIn_of_start {pin : PinId} {env : Env} (hp : p.wf = true) (hrom : s.rom = canonicalRom p)
    (hb : s.busy = false) (hin : s.inbox = [⟨0, .start pin env⟩]) : EndsIn 135 (specRead p env) (readTicks p) s := by
  have hstart : ReadAt p 0 (startRead pin env { s with inbox := [] }) := ⟨hp, hrom, rfl, rfl, rfl, rfl⟩
  refine .of_step (step_of_start hb hin) ?_
  refine hstart.endsIn_of_fallThrough (i := .cent) rfl rfl { hstart with } fun h1 => ?_
  exact h1.endsIn_firstDir rfl rfl rfl rfl

/-- Settles O53: the read with the default parameters, whose ticks add up to 25001. -/
theorem canonicalReadEnds : Obligations.CanonicalReadEnds := by
  intro s pin env hrom hb hin
  obtain ⟨t, hrun, hend⟩ := endsIn_of_start (p := Config.defaults) (by decide) hrom hb hin
  exact ⟨134, t, le_rfl, hrun, hend.busy, hend.done, hend.upc, hend.t_le⟩

/-- Settles O54: the read with any parameters. -/
theorem canonicalReadIsTheReadFunction : Obligations.CanonicalReadIsTheReadFunction := by
  intro p s pin env hp hrom hb hin
  obtain ⟨t, hrun, hend⟩ := endsIn_of_start hp hrom hb hin
  exact ⟨t, hrun, hend.busy, hend.done, hend.measurement⟩

end Sys2Proof.Machine
end

section
/-! The hazards (70_reset_and_hazards.md): a preempted read (R220), and the ticks each micro-operation takes (R230). -/

namespace Sys2Proof.Machine

variable {i : Instr} {a : Level} {imm : Count} {err : ErrorKind} {s t : State} {m n : Nat}

/-! ## Preemption -/

/-- Settles O37: a due preemption is made by `BUSY` alone. -/
theorem preemptionOfAReadIsRefused : Obligations.PreemptionOfAReadIsRefused := by
  intro s rest hin
  obtain ⟨hdue, htake⟩ := dueMove_of_cons hin
  constructor
  · intro hb
    simp [step, hdue, htake, makeMove, hb]
  · intro hb
    simp [step, hdue, htake, makeMove, hb]

/-! ## The number of ticks of a wait -/

/-- A level is first seen after one number of ticks only. -/
theorem SeenAfter.unique {lin : Trace} {t0 timeout : Nat} (hm : SeenAfter lin t0 a timeout m)
    (hn : SeenAfter lin t0 a timeout n) : m = n :=
  Option.some.inj (((specWait_eq_some_iff t0 m).mpr hm).symm.trans ((specWait_eq_some_iff t0 n).mpr hn))

theorem SeenAfter.not_neverSeen {lin : Trace} {t0 timeout : Nat} (hn : SeenAfter lin t0 a timeout n) :
    ¬ NeverSeen lin t0 a timeout := fun hnever => hnever n hn.1 hn.2.2

/-! ## The ticks of the micro-operations -/

/-- The two ways a `WAIT` or `WAITM` that completes has spent its ticks (R113, R230): on seeing its level, or on the whole
budget and one more. -/
inductive WaitTook (a : Level) (imm : Count) (err : ErrorKind) (s t : State) : Prop
  | seen {n : Nat} (hseen : SeenAfter s.env.lin s.t a imm.toNat n) (he : t.e.toNat = n) (ht : t.t = s.t + n)
  | timedOut (hnever : NeverSeen s.env.lin s.t a imm.toNat) (he : t.e.toNat = imm.toNat + 1)
      (ht : t.t = s.t + (imm.toNat + 1)) (hupc : t.upc = 15) (herr : t.err = err)

theorem exec_waitTook (hallowed : timeoutAllowed imm = true) (hi : i = .wait a imm err ∨ i = .waitm a imm err)
    (h : exec i s = .next t) : WaitTook a imm err s t := by
  have hbudget : imm.toNat + 1 ≤ 65535 := Nat.succ_le_succ (of_decide_eq_true hallowed)
  have hcount {n : Nat} (hn : SeenAfter s.env.lin s.t a imm.toNat n) : n ≤ 65535 := hn.1.trans (by omega)
  obtain rfl | rfl := hi
  · obtain ⟨-, ⟨n, hn, rfl⟩ | ⟨hnever, rfl⟩⟩ := execWait_cases h
    · exact .seen hn (elapse_e_toNat (s := s) (hcount hn)) rfl
    · exact .timedOut hnever (elapse_e_toNat (s := s) hbudget) rfl rfl rfl
  · obtain ⟨-, ⟨n, -, hn, rfl⟩ | ⟨hnever, rfl⟩⟩ := execWaitm_cases h
    · exact .seen hn (elapse_e_toNat (s := s) (hcount hn)) rfl
    · exact .timedOut hnever (elapse_e_toNat (s := s) hbudget) rfl rfl rfl

theorem timeoutAllowed_of_wf (hi : i = .wait a imm err ∨ i = .waitm a imm err) (hwf : i.wf = true) :
    timeoutAllowed imm = true := by
  obtain rfl | rfl := hi
  · exact (Bool.and_eq_true_iff.mp hwf).2
  · exact (Bool.and_eq_true_iff.mp hwf).2

/-- No micro-operation but `DLY`, `WAIT` and `WAITM` takes a tick (R230). -/
theorem exec_t_of_untimed (hdly : ∀ n, i ≠ .dly n) (hwait : ∀ a imm err, i ≠ .wait a imm err ∧ i ≠ .waitm a imm err)
    (h : exec i s = .next t) : t.t = s.t := by
  cases i with
  | cent => obtain rfl := execCent_cases h; rfl
  | cext => obtain rfl := execCext_cases h; rfl
  | dir _ _ => exact exec_dir_t h
  | lvl _ => obtain ⟨-, rfl⟩ := execLvl_cases h; rfl
  | dly n => exact absurd rfl (hdly n)
  | wait a imm err => exact absurd rfl (hwait a imm err).1
  | waitm a imm err => exact absurd rfl (hwait a imm err).2
  | loop _ _ =>
    obtain ⟨-, ⟨-, rfl⟩ | ⟨-, rfl⟩⟩ := execLoop_cases h
    · rfl
    · rfl
  | dec _ => obtain rfl := execDec_cases h; rfl
  | val => obtain rfl := execVal_cases h; rfl
  | cvt => obtain rfl := execCvt_cases h; rfl
  | endOp => obtain rfl := execEnd_cases h; rfl

/-- Settles O22: the delay, the two ways a wait ends, of which the line allows one, and the rest. -/
theorem onlyDelaysAndWaitsTakeTicks : Obligations.OnlyDelaysAndWaitsTakeTicks := by
  intro i s t hwf h
  refine ⟨?_, fun a imm err hi => ?_, fun hdly hwait => exec_t_of_untimed hdly hwait h⟩
  · rintro n rfl
    obtain rfl := execDly_cases h
    rfl
  · cases exec_waitTook (timeoutAllowed_of_wf hi hwf) hi h with
    | seen hseen he ht =>
      subst he
      exact ⟨ht, fun _ hn => ⟨hseen.unique hn, hn.1⟩, fun hnever => absurd hnever hseen.not_neverSeen, .inl hseen.1⟩
    | timedOut hnever he ht hupc herr =>
      exact ⟨he ▸ ht, fun _ hn => absurd hnever hn.not_neverSeen, fun _ => ⟨he, hupc, herr⟩, .inr ⟨he, hupc, herr⟩⟩

end Sys2Proof.Machine
end
